-- ==== Sys2Proof/Word.lean ====
section
/-!
DEFINITION. The word types of the block (spec/00_scope.md R7, R9): bytes, command words, addresses, times.
All integers are unsigned; nothing here is signed.
-/

namespace Sys2Proof

/-- A byte: 8 bits, unsigned (R9). -/
abbrev Byte := BitVec 8

/-- A command word (spec/30_encoding.md R140). -/
abbrev CmdWord := BitVec 16

/-- A RadioAddress, `ADDR_W` = 32 bits (R7, R102). -/
abbrev Addr := BitVec 32

/-- A time in seconds, `TIME_W` = 64 bits (R7, R446). -/
abbrev Time := BitVec 64

end Sys2Proof
end

