-- ==== Sys2Proof/Syntax.lean ====
section
/-!
DEFINITION. The commands of the block as syntax: one constructor of `Instr` per row of spec/opcode_table.json, holding the
operands of the command WORD (spec/30_encoding.md R140..R145). The operand ports of R41 are not part of the word.
-/

namespace Sys2Proof

/-- The 2-bit buffer index (R43, R140). -/
inductive BufIdx where
  /-- 0: radio-read -/
  | rrb
  /-- 1: radio-write -/
  | rwb
  /-- 2: udp-read, reserved (R45) -/
  | urb
  /-- 3: udp-write -/
  | uwb
  deriving DecidableEq, Repr

/-- The 4-bit control register number (R51, R144). -/
inductive CrNum where
  | cr0 | cr1 | cr2 | cr3 | cr4 | cr5 | cr6 | cr7
  | cr8 | cr9 | cr10 | cr11 | cr12 | cr13 | cr14 | cr15
  deriving DecidableEq, Repr

/-- The reserved control register numbers (R61). -/
def CrNum.reserved : CrNum → Bool
  | .cr5 | .cr6 | .cr7 | .cr12 | .cr13 | .cr14 | .cr15 => true
  | .cr0 | .cr1 | .cr2 | .cr3 | .cr4 | .cr8 | .cr9 | .cr10 | .cr11 => false

/-- The commands (R142, R145). -/
inductive Instr where
  -- buffer class
  | cksum (b : BufIdx)
  | bufAppend (b : BufIdx)
  | bufReset (b : BufIdx)
  | bufLen (b : BufIdx)
  | bufRead (b : BufIdx)
  -- codec class
  | encRreq (b : BufIdx)
  | encRrsp (b : BufIdx)
  | encDreq (b : BufIdx)
  | encDrsp (b : BufIdx)
  | decode (b : BufIdx)
  -- registry class
  | regFind
  | regAdd
  | regRemove
  | regEarliest
  | regOffline
  | regPollreq
  | regPollrsp
  | regSize
  | regList
  -- engine class
  | engStart
  | engStop
  | cfgRead (n : CrNum)
  | cfgWrite (n : CrNum)
  -- engine iteration, one per wait outcome
  | engIterHarderr
  | engIterIntr
  | engIterTimeout
  | engIterCtrl
  | engIterRxrdy
  | engIterTxrdy
  | engIterUdprdy
  deriving DecidableEq, Repr

end Sys2Proof
end

