-- ==== Sys2Proof/WellFormed.lean ====
section
/-!
DEFINITION. Which instructions the spec calls legal encodings (spec/30_encoding.md R148). The types of `Instr` already
bound the buffer index and the register number; what is left to check is that no reserved control register is named.
-/

namespace Sys2Proof

/-- An instruction is well formed when its word is no illegal or reserved encoding of R148: a `CFG_READ` or `CFG_WRITE`
names no reserved control register (R61). An ill-formed one still decodes and executes: it ends with `ILLEGAL_COMMAND`. -/
def Instr.wellFormed : Instr → Bool
  | .cfgRead n | .cfgWrite n => !n.reserved
  | .cksum _ | .bufAppend _ | .bufReset _ | .bufLen _ | .bufRead _
  | .encRreq _ | .encRrsp _ | .encDreq _ | .encDrsp _ | .decode _
  | .regFind | .regAdd | .regRemove | .regEarliest | .regOffline | .regPollreq | .regPollrsp | .regSize | .regList
  | .engStart | .engStop
  | .engIterHarderr | .engIterIntr | .engIterTimeout | .engIterCtrl | .engIterRxrdy | .engIterTxrdy
  | .engIterUdprdy => true

end Sys2Proof
end

