-- ==== Sys2Proof/Decode.lean ====
section
/-!
DEFINITION. The decoder of the command word and, after it, the encoder (spec/30_encoding.md R140..R149).
Decoding is total: a word is an instruction or is rejected by name. There is one command length, 16 bits (R149).
-/

namespace Sys2Proof

/-- Why a word is no command (R141, R148). Each is answered with `ILLEGAL_COMMAND` and no change. -/
inductive DecodeError where
  /-- `OPC` is not in the operation map (R142) -/
  | unknownOpcode
  /-- a must-be-zero field is not zero (R141) -/
  | mustBeZero
  /-- `ENG_ITER` with outcome 7 (R145) -/
  | reservedOutcome
  deriving DecidableEq, Repr

/-- `OPC`, bits 15..8 (R140). -/
def opcOf (w : CmdWord) : BitVec 8 := w.extractLsb' 8 8

/-- `BUF`, bits 7..6 (R140). -/
def bufOf (w : CmdWord) : BitVec 2 := w.extractLsb' 6 2

/-- `SUB`, bits 5..0 (R140). -/
def subOf (w : CmdWord) : BitVec 6 := w.extractLsb' 0 6

/-- The buffer a 2-bit index selects (R43, R143). -/
def BufIdx.ofBits (v : BitVec 2) : BufIdx :=
  match v.toNat with
  | 0 => .rrb
  | 1 => .rwb
  | 2 => .urb
  | _ => .uwb

/-- The control register a 4-bit number selects (R51, R144). -/
def CrNum.ofBits (v : BitVec 4) : CrNum :=
  match v.toNat with
  | 0 => .cr0
  | 1 => .cr1
  | 2 => .cr2
  | 3 => .cr3
  | 4 => .cr4
  | 5 => .cr5
  | 6 => .cr6
  | 7 => .cr7
  | 8 => .cr8
  | 9 => .cr9
  | 10 => .cr10
  | 11 => .cr11
  | 12 => .cr12
  | 13 => .cr13
  | 14 => .cr14
  | _ => .cr15

/-- Buffer-class and codec-class words: `SUB` must be zero (R141). -/
def decodeBufClass (mk : BufIdx → Instr) (w : CmdWord) : Except DecodeError Instr :=
  if subOf w = 0 then .ok (mk (.ofBits (bufOf w))) else .error .mustBeZero

/-- Registry-class words, `ENG_START` and `ENG_STOP`: `BUF` and `SUB` must be zero (R141). -/
def decodePlain (i : Instr) (w : CmdWord) : Except DecodeError Instr :=
  if bufOf w = 0 ∧ subOf w = 0 then .ok i else .error .mustBeZero

/-- `CFG_READ` and `CFG_WRITE`: `BUF` and `SUB[5:4]` must be zero, `SUB[3:0]` is the register number (R141, R144). -/
def decodeCfg (mk : CrNum → Instr) (w : CmdWord) : Except DecodeError Instr :=
  if bufOf w = 0 ∧ (subOf w).extractLsb' 4 2 = 0 then .ok (mk (.ofBits ((subOf w).extractLsb' 0 4)))
  else .error .mustBeZero

/-- `ENG_ITER`: `BUF` and `SUB[5:3]` must be zero, `SUB[2:0]` is the wait outcome, 7 is reserved (R141, R145). -/
def decodeIter (w : CmdWord) : Except DecodeError Instr :=
  if bufOf w = 0 ∧ (subOf w).extractLsb' 3 3 = 0 then
    match ((subOf w).extractLsb' 0 3).toNat with
    | 0 => .ok .engIterHarderr
    | 1 => .ok .engIterIntr
    | 2 => .ok .engIterTimeout
    | 3 => .ok .engIterCtrl
    | 4 => .ok .engIterRxrdy
    | 5 => .ok .engIterTxrdy
    | 6 => .ok .engIterUdprdy
    | _ => .error .reservedOutcome
  else .error .mustBeZero

/-- The decoder: by `OPC` alone, then by `SUB` for `ENG_ITER` (R142, R149). -/
def decodeWord (w : CmdWord) : Except DecodeError Instr :=
  match (opcOf w).toNat with
  | 0x01 => decodeBufClass .cksum w
  | 0x02 => decodeBufClass .bufAppend w
  | 0x03 => decodeBufClass .bufReset w
  | 0x04 => decodeBufClass .bufLen w
  | 0x05 => decodeBufClass .bufRead w
  | 0x10 => decodeBufClass .encRreq w
  | 0x11 => decodeBufClass .encRrsp w
  | 0x12 => decodeBufClass .encDreq w
  | 0x13 => decodeBufClass .encDrsp w
  | 0x14 => decodeBufClass .decode w
  | 0x20 => decodePlain .regFind w
  | 0x21 => decodePlain .regAdd w
  | 0x22 => decodePlain .regRemove w
  | 0x23 => decodePlain .regEarliest w
  | 0x24 => decodePlain .regOffline w
  | 0x25 => decodePlain .regPollreq w
  | 0x26 => decodePlain .regPollrsp w
  | 0x27 => decodePlain .regSize w
  | 0x28 => decodePlain .regList w
  | 0x30 => decodePlain .engStart w
  | 0x31 => decodePlain .engStop w
  | 0x32 => decodeCfg .cfgRead w
  | 0x33 => decodeCfg .cfgWrite w
  | 0x34 => decodeIter w
  | _ => .error .unknownOpcode

/-- The host's reading of a table word: the first `nbits` bits of an instruction, every bit above them zero. Every command
is one 16-bit word (R149); it reaches the block on the command port and is stored nowhere (R115). -/
def decodeTableWord (nbits w : Nat) : Option Instr :=
  if nbits ≤ 16 ∧ w < 2 ^ nbits then
    match decodeWord (BitVec.ofNat 16 w) with
    | .ok i => some i
    | .error _ => none
  else none

/-! ### The encoder -/

/-- The 2-bit index of a buffer (R43). -/
def BufIdx.toBits : BufIdx → BitVec 2
  | .rrb => 0
  | .rwb => 1
  | .urb => 2
  | .uwb => 3

/-- The 4-bit number of a control register (R51). -/
def CrNum.toBits : CrNum → BitVec 4
  | .cr0 => 0
  | .cr1 => 1
  | .cr2 => 2
  | .cr3 => 3
  | .cr4 => 4
  | .cr5 => 5
  | .cr6 => 6
  | .cr7 => 7
  | .cr8 => 8
  | .cr9 => 9
  | .cr10 => 10
  | .cr11 => 11
  | .cr12 => 12
  | .cr13 => 13
  | .cr14 => 14
  | .cr15 => 15

/-- `OPC[15:8] BUF[7:6] SUB[5:0]` (R140). -/
def packWord (opc : BitVec 8) (buf : BitVec 2) (sub : BitVec 6) : CmdWord := opc ++ buf ++ sub

/-- The word of an instruction, written from the operation map (R142, R144, R145). -/
def encode : Instr → CmdWord
  | .cksum b => packWord 0x01 b.toBits 0
  | .bufAppend b => packWord 0x02 b.toBits 0
  | .bufReset b => packWord 0x03 b.toBits 0
  | .bufLen b => packWord 0x04 b.toBits 0
  | .bufRead b => packWord 0x05 b.toBits 0
  | .encRreq b => packWord 0x10 b.toBits 0
  | .encRrsp b => packWord 0x11 b.toBits 0
  | .encDreq b => packWord 0x12 b.toBits 0
  | .encDrsp b => packWord 0x13 b.toBits 0
  | .decode b => packWord 0x14 b.toBits 0
  | .regFind => packWord 0x20 0 0
  | .regAdd => packWord 0x21 0 0
  | .regRemove => packWord 0x22 0 0
  | .regEarliest => packWord 0x23 0 0
  | .regOffline => packWord 0x24 0 0
  | .regPollreq => packWord 0x25 0 0
  | .regPollrsp => packWord 0x26 0 0
  | .regSize => packWord 0x27 0 0
  | .regList => packWord 0x28 0 0
  | .engStart => packWord 0x30 0 0
  | .engStop => packWord 0x31 0 0
  | .cfgRead n => packWord 0x32 0 (n.toBits.setWidth 6)
  | .cfgWrite n => packWord 0x33 0 (n.toBits.setWidth 6)
  | .engIterHarderr => packWord 0x34 0 0
  | .engIterIntr => packWord 0x34 0 1
  | .engIterTimeout => packWord 0x34 0 2
  | .engIterCtrl => packWord 0x34 0 3
  | .engIterRxrdy => packWord 0x34 0 4
  | .engIterTxrdy => packWord 0x34 0 5
  | .engIterUdprdy => packWord 0x34 0 6

end Sys2Proof
end

