-- ==== Sys2Proof/Config.lean ====
section
/-!
DEFINITION. The block's implementation parameters (spec/00_scope.md R7, R8; 93_implementation_defined.md §1).

A value the spec marks *fixed* is a constant here. A value it marks *parameter* is an argument of the model: a field of
`Params`, plain data that State carries and no command writes, so that a statement about every state is a statement about
every parameter value (log entry 1). The checksum algorithm, a parameter that is a function, is named by `Checksum`: the
spec's reference algorithm, or an algorithm of which nothing is known (log entry 2).
-/

namespace Sys2Proof

/-- `BROADCAST`, the reserved broadcast/registration address (R7, R102). -/
def Config.broadcast : Addr := 0x00FFFFFF

/-- `ADDR_MIN`, the least valid sensor address (R7, R102). -/
def Config.addrMin : Addr := 0x01000000

/-- `ADDR_MAX`, the greatest valid sensor address (R7, R102). -/
def Config.addrMax : Addr := 0xFFFFFFFE

/-- `CAP`, the registry's capacity (R7, R46). -/
def Config.cap : Nat := 32

/-- `USERID_MIN` (R7, R53). -/
def Config.userIdMin : Byte := 0x01

/-- `USERID_MAX` (R7, R53). -/
def Config.userIdMax : Byte := 0xF0

/-- `HDR_LEN`, the header's length in bytes (R7, R160). -/
def Config.hdrLen : Nat := 4

/-- `CL_CTRL`, the `contentLength` of control content (R7, R166). -/
def Config.clCtrl : Byte := 10

/-- `CL_DATA`, the `contentLength` of data content (R7, R166). -/
def Config.clData : Byte := 19

/-- A checksum algorithm of which nothing is known: a free value, one for each `k` (R200, R204, D8; log entry 2). -/
opaque Config.freeChecksum : Nat → List Byte → Byte

/-- The `CKSUM` parameter (R7, R200, D8), named rather than held as a function so that State stays plain data. -/
inductive Checksum where
  /-- the reference algorithm: the sum of the bytes mod 256 (R202) -/
  | sumMod256
  /-- an algorithm the source does not name: `Config.freeChecksum k` (DESIGN CHOICE, safe; log entry 2) -/
  | unspecified (k : Nat)
  deriving DecidableEq, Repr

/-- The parameters of the block (R7). -/
structure Params where
  /-- `PRE0`, `PRE1`: the preamble bytes (R162, D9) -/
  pre0 : Byte
  pre1 : Byte
  /-- `CKSUM`: the checksum algorithm (R200, D8) -/
  cksum : Checksum
  /-- the four command byte values (R168, D10) -/
  cmdRreq : Byte
  cmdRrsp : Byte
  cmdDreq : Byte
  cmdDrsp : Byte
  /-- `TYPE_CH4`: no rule of the block depends on it (R169, D11) -/
  typeCh4 : Byte
  /-- `OFFLINE_CYCLES` (R314, D25) -/
  offlineCycles : Nat
  /-- `BUF_CAP`: the capacity of each byte buffer in bytes (R44, D36) -/
  bufCap : Nat
  /-- `VENDOR_BYTE` (R53, D44) -/
  vendorByte : Byte
  /-- `SRC_RANGE_CHECK` (R102, R301, D15) -/
  srcRangeCheck : Bool
  deriving DecidableEq, Repr

/-- The reference configuration of spec/95_test_vectors.md (R7, R202; D8..D11, D25, D36, D44, D15). -/
def Params.reference : Params where
  pre0 := 0xAA
  pre1 := 0x55
  cksum := .sumMod256
  cmdRreq := 0x01
  cmdRrsp := 0x02
  cmdDreq := 0x03
  cmdDrsp := 0x04
  typeCh4 := 0x01
  offlineCycles := 3
  bufCap := 256
  vendorByte := 0x00
  srcRangeCheck := false

end Sys2Proof
end

