-- ==== Sys2Proof/Machine/State.lean ====
section
/-!
DEFINITION. The state of the block as plain data (spec/10_state.md), the reasons a step can stop, and the state after reset.
-/

namespace Sys2Proof.Machine

/-! ### Operand ports (R41, R146) -/

/-- A reading record, nine bytes in wire order; `value` is four opaque bytes (R50). -/
structure Reading where
  type : Byte
  value0 : Byte
  value1 : Byte
  value2 : Byte
  value3 : Byte
  voltage : Byte
  battery : Byte
  flags : Byte
  watchdogId : Byte
  deriving DecidableEq, Repr

/-- The result of the I/O the environment performed, carried by the `IORES` port (R146). -/
inductive IoRes where
  /-- a read returned these bytes -/
  | bytes (s : List Byte)
  /-- a read returned 0 bytes -/
  | eof
  /-- a write or send completed in full -/
  | ok
  | wouldBlock
  /-- a hard failure -/
  | error
  deriving DecidableEq, Repr

/-- The operand input ports the host drives with one command (R41). -/
structure Ports where
  /-- `A`: dest of an encoder, the address of a registry command -/
  a : Addr
  /-- `B`: src of an encoder -/
  b : Addr
  /-- `RD` -/
  rd : Reading
  /-- `DATA` -/
  data : List Byte
  /-- `NOW`, in seconds -/
  now : Time
  /-- `T` -/
  t : BitVec 32
  /-- `OFF` -/
  off : BitVec 16
  /-- `LEN` -/
  len : BitVec 16
  /-- `VAL` -/
  val : BitVec 32
  /-- `IORES` -/
  iores : IoRes
  deriving DecidableEq, Repr

/-- What the ports read as where the host drives nothing: zeros, no bytes, would-block. DESIGN CHOICE (log entry 4): the
spec says only that ports hold nothing between commands (R41); no command is ever accepted without its ports. -/
def Ports.idle : Ports where
  a := 0
  b := 0
  rd := ⟨0, 0, 0, 0, 0, 0, 0, 0, 0⟩
  data := []
  now := 0
  t := 0
  off := 0
  len := 0
  val := 0
  iores := .wouldBlock

/-- One command as the host issues it: the word and the operand ports that come with it (R140). -/
structure Command where
  word : CmdWord
  ports : Ports
  deriving DecidableEq, Repr

/-! ### Byte buffers (R43) -/

/-- The four byte buffers. -/
structure Buffers where
  rrb : List Byte
  rwb : List Byte
  urb : List Byte
  uwb : List Byte
  deriving DecidableEq, Repr

/-- All four buffers empty (R67, R117). -/
def Buffers.empty : Buffers := ⟨[], [], [], []⟩

/-! ### Sensor registry (R46..R50) -/

/-- The four states of a sensor record (R47). -/
inductive RecState where
  | registerPending
  | registerResponded
  | pollRequested
  | pollResponded
  deriving DecidableEq, Repr

/-- A sensor record (R46). -/
structure SensorRecord where
  address : Addr
  state : RecState
  requestCount : BitVec 32
  responseCount : BitVec 32
  lastRequestTime : Time
  lastReading : Option Reading
  seq : BitVec 64
  deriving DecidableEq, Repr

/-! ### Control registers (R51..R66) -/

/-- A configuration register: its value and its hidden written bit (R63). -/
structure CfgReg (w : Nat) where
  value : BitVec w
  written : Bool
  deriving DecidableEq, Repr

/-- A configuration register no `CFG_WRITE` has written: the written bit is clear (R63, R67). The value is 0, DESIGN
CHOICE (log entry 9): nothing can read it. -/
def CfgReg.unwritten (w : Nat) : CfgReg w := ⟨0, false⟩

/-- `EXIT_CAUSE`, `ENG_STATUS[2:1]` (R57). -/
inductive ExitCause where
  /-- 0: none since reset or since the last start -/
  | none
  /-- 1 -/
  | graceful
  /-- 2 -/
  | fatalIo
  /-- 3 -/
  | fatalAlloc
  deriving DecidableEq, Repr

/-- The causes of a resource-fatal stop (R366). -/
inductive FatalCause where
  /-- `FATAL_IO` = 2 -/
  | io
  /-- `FATAL_ALLOC` = 3 -/
  | alloc
  deriving DecidableEq, Repr

/-- The five intent flags, CR9 (R58). -/
structure Intent where
  /-- `[0]` -/
  wantReadRadio : Bool
  /-- `[1]` -/
  wantWriteRadio : Bool
  /-- `[2]`, never set (R64) -/
  wantReadUdp : Bool
  /-- `[3]` -/
  wantWriteUdp : Bool
  /-- `[4]` -/
  processPending : Bool
  deriving DecidableEq, Repr

/-- `INTENT = 0` (R67, R365, R366). -/
def Intent.clear : Intent := ⟨false, false, false, false, false⟩

/-! ### Output streams (R62) -/

/-- A datagram sent to the collector (R62, R376). -/
structure Datagram where
  ip : BitVec 32
  port : BitVec 16
  bytes : List Byte
  deriving DecidableEq, Repr

/-- How a decode that found no packet ended (R250). -/
inductive DecodeFailure where
  /-- `NONE` -/
  | none
  /-- `BAD_CONTENT` -/
  | badContent
  deriving DecidableEq, Repr

/-- A log entry: its code with the info the code carries (R452); the level is a function of the code. -/
inductive LogEntry where
  /-- 1 `W_DUPLICATE_REG` -/
  | duplicateReg (a : Addr)
  /-- 2 `W_BAD_PACKET` -/
  | badPacket (st : DecodeFailure)
  /-- 3 `W_UNKNOWN_ADDR` -/
  | unknownAddr (a : Addr)
  /-- 4 `W_STATE_MISMATCH` -/
  | stateMismatch (a : Addr)
  /-- 5 `W_UNRECOGNIZED_CMD` -/
  | unrecognizedCmd (c : Byte)
  /-- 6 `W_CAPACITY` -/
  | capacity (a : Addr)
  /-- 7 `I_EVICT` -/
  | evict (a : Addr)
  /-- 8 `E_FATAL` -/
  | fatal (c : FatalCause)
  deriving DecidableEq, Repr

/-- The level of a log entry (R452). -/
inductive LogLevel where
  | info
  | warning
  | error
  deriving DecidableEq, Repr

/-- An invocation of the device capability (R360, R455). -/
inductive DevCall where
  | setNetworkId (v : BitVec 16)
  | setFrequency (channel : BitVec 4)
  | setDataRate (v : BitVec 32)
  deriving DecidableEq, Repr

/-! ### Result ports (R42) -/

/-- The status codes (R430). -/
inductive Status where
  | ok
  | none
  | badContent
  | notFound
  | capacityExceeded
  | stateMismatch
  | illegalCommand
  | busy
  | notRunning
  | allocFail
  | rangeError
  | unconfigured
  | exited
  deriving DecidableEq, Repr

/-- A decoded packet (R251). -/
structure Packet where
  offset : Nat
  contentLength : Byte
  headerChecksum : Byte
  dest : Addr
  src : Addr
  command : Byte
  reading : Option Reading
  contentChecksum : Byte
  deriving DecidableEq, Repr

/-- The result output ports. Every command writes `STATUS`; a port the command did not write holds no value (R42). -/
structure ResultPorts where
  /-- `STATUS` -/
  status : Status
  /-- `RES` -/
  res : Option (BitVec 64) := none
  /-- `OUT` -/
  out : Option (List Byte) := none
  /-- `PKT` -/
  pkt : Option Packet := none
  /-- `REC` -/
  record : Option SensorRecord := none
  /-- `LIST` -/
  list : Option (List SensorRecord) := none
  deriving DecidableEq, Repr

/-! ### The state -/

/-- Everything the spec gives the block, the parameters it runs under, and the host's command stream. -/
structure State where
  /-- the implementation parameters; no command writes them (R7; log entry 1) -/
  params : Params
  /-- the host's command stream, oldest first: the model's own field (R40, R140; log entry 3) -/
  pending : List Command
  /-- the four byte buffers (R43) -/
  bufs : Buffers
  /-- the registry, held in its iteration order, newest record first (R46, R300; log entry 11) -/
  registry : List SensorRecord
  /-- `NEXT_SEQ` (R49) -/
  nextSeq : BitVec 64
  /-- CR0 `LOCAL_ADDR` (R52) -/
  localAddr : CfgReg 32
  /-- CR1 `NETWORK_ID[7:0]`, the user id; `[15:8]` is hard-wired to `VENDOR_BYTE` (R53) -/
  userId : CfgReg 8
  /-- CR2 `DATA_RATE` (R54) -/
  dataRate : CfgReg 32
  /-- CR3 `SERVER_IP` (R55) -/
  serverIp : CfgReg 32
  /-- CR4 `SERVER_PORT` (R56) -/
  serverPort : CfgReg 16
  /-- CR8 `ENG_STATUS.RUNNING` (R57) -/
  running : Bool
  /-- CR8 `ENG_STATUS.EXIT_CAUSE` (R57) -/
  exitCause : ExitCause
  /-- CR8 `ENG_STATUS.CTRL_PENDING`, the control channel (R65) -/
  ctrlPending : Bool
  /-- CR9 `INTENT` (R58) -/
  intent : Intent
  /-- CR11 `WAIT_TIMEOUT` (R60) -/
  waitTimeout : BitVec 32
  /-- the session latches (R66) -/
  sLocal : BitVec 32
  sServerIp : BitVec 32
  sServerPort : BitVec 16
  /-- the output streams, oldest entry first (R62) -/
  radioTx : List (List Byte)
  udpTx : List Datagram
  log : List LogEntry
  devcap : List DevCall
  /-- the result ports as the last command left them (R42) -/
  result : ResultPorts
  deriving DecidableEq, Repr

/-- Why the machine stops with a fault. -/
inductive Fault where
  /-- Raised by the host-side port readers `ResultPorts.read*` (Machine/Operands.lean), never by a command: the result port
  holds no value after the last command (R42, 93 §2). Safe: the reader gets no value instead of a stale one. -/
  | portHoldsNoValue
  deriving DecidableEq, Repr

/-- Why the model refuses a step. -/
inductive Refusal where
  /-- Raised by exec's arm of an instruction that has no meaning yet. Safe: the machine stops where the hardware goes on. -/
  | notModelled (mnemonic : String)
  /-- Raised by `REG_ADD` and by a registration dispatch that would create a record while `NEXT_SEQ` is 2^64 - 1 (R302:
  'a model may refuse a creation'; 93 §2). Safe: the machine stops where the hardware goes on (log entry 12). -/
  | seqExhausted
  deriving DecidableEq, Repr

/-- Power-on reset under given parameters (R67, R480). The values R67 does not state are named in the log: the empty command
stream (3), no value on the result ports (7), `STATUS` = OK (8), zeros behind clear written bits (9), the latches (10). -/
def State.resetWith (p : Params) : State where
  params := p
  pending := []
  bufs := .empty
  registry := []
  nextSeq := 0
  localAddr := .unwritten 32
  userId := .unwritten 8
  dataRate := .unwritten 32
  serverIp := .unwritten 32
  serverPort := .unwritten 16
  running := false
  exitCause := .none
  ctrlPending := false
  intent := .clear
  waitTimeout := 0
  sLocal := 0
  sServerIp := 0
  sServerPort := 0
  radioTx := []
  udpTx := []
  log := []
  devcap := []
  result := { status := .ok }

/-- The machine right after reset, under the spec's reference configuration (DESIGN CHOICE, log entry 1). -/
def State.reset : State := State.resetWith Params.reference

end Sys2Proof.Machine
end

