-- ==== Sys2Proof/Machine/Flags.lean ====
section
/-!
DEFINITION. The block's flags: the intent flags of CR9 and what each wait outcome requires of them (spec/10_state.md R58,
R64; 43_relay_fsm.md R364, R368).
-/

namespace Sys2Proof.Machine

/-- `INTENT = 0b00001`, {readRadio}. -/
def Intent.readRadio : Intent := { Intent.clear with wantReadRadio := true }

/-- `INTENT = 0b00010`, {writeRadio}. -/
def Intent.writeRadio : Intent := { Intent.clear with wantWriteRadio := true }

/-- `INTENT = 0b01000`, {writeUdp}. -/
def Intent.writeUdp : Intent := { Intent.clear with wantWriteUdp := true }

/-- `INTENT = 0b10000`, processPending with the I/O flags idle (R374). -/
def Intent.processing : Intent := { Intent.clear with processPending := true }

/-- `INTENT[3:0] <- io`: the I/O flags are replaced, processPending is kept (R391, R392, R398). -/
def Intent.withIo (i io : Intent) : Intent := { io with processPending := i.processPending }

/-- The wait outcomes (R145). -/
inductive WaitOutcome where
  | hardErr
  | intr
  | timeout
  | ctrl
  | rxRdy
  | txRdy
  | udpRdy
  deriving DecidableEq, Repr

/-- `IORES` of a radio read: the chunk is not empty and fits the free space of `RRB` (R146, R364). -/
def readResultFits (cap used : Nat) : IoRes → Bool
  | .bytes v => decide (1 ≤ v.length ∧ v.length ≤ cap - used)
  | .eof | .wouldBlock | .error => true
  | .ok => false

/-- `IORES` of a radio write or a UDP send (R146, R364). -/
def writeResult : IoRes → Bool
  | .ok | .wouldBlock | .error => true
  | .bytes _ | .eof => false

/-- `admissible(o, IORES)` (R364). -/
def admissible (s : State) (io : IoRes) : WaitOutcome → Bool
  | .hardErr | .intr => true
  | .timeout => !s.ctrlPending
  | .ctrl => s.ctrlPending
  | .rxRdy => !s.ctrlPending && s.intent.wantReadRadio && readResultFits s.params.bufCap s.bufs.rrb.length io
  | .txRdy => !s.ctrlPending && s.intent.wantWriteRadio && writeResult io
  | .udpRdy => !s.ctrlPending && s.intent.wantWriteUdp && writeResult io

/-- The wait timeout in seconds for a registry of a given size: `floor(32 / max(1, size))` (R368). -/
def waitTimeoutFor (size : Nat) : BitVec 32 := BitVec.ofNat 32 (Config.cap / max 1 size)

/-- `THRESH = CAP * OFFLINE_CYCLES` (R314), a natural number (log entry 15). -/
def threshold (p : Params) : Nat := Config.cap * p.offlineCycles

end Sys2Proof.Machine
end

