-- ==== Sys2Proof/Machine/Operands.lean ====
section
/-!
DEFINITION. Operand forms: the input ports of the command in progress, buffers and byte ranges, byte order, the checksum,
the control register views, and the host's reading of the result ports (spec/10_state.md, 00_scope.md R10, R11).
-/

namespace Sys2Proof.Machine

/-! ### Input ports (R41, R147) -/

/-- The operand ports of the command in progress, which is the oldest pending command (R41): each is read at its full
width, zero-extended, never shifted or scaled (R147). -/
def State.ports (s : State) : Ports :=
  match s.pending with
  | [] => .idle
  | c :: _ => c.ports

/-! ### Buffers -/

/-- `BufRead(b)` (R11). -/
def Buffers.get (m : Buffers) : BufIdx → List Byte
  | .rrb => m.rrb
  | .rwb => m.rwb
  | .urb => m.urb
  | .uwb => m.uwb

/-- `BufWrite(b, s)`: replaces the contents of one buffer (R11). -/
def Buffers.set (m : Buffers) (b : BufIdx) (v : List Byte) : Buffers :=
  match b with
  | .rrb => { m with rrb := v }
  | .rwb => { m with rwb := v }
  | .urb => { m with urb := v }
  | .uwb => { m with uwb := v }

/-- `BufRead(b)` (R11). -/
def State.buf (s : State) (b : BufIdx) : List Byte := s.bufs.get b

/-- `BufWrite(b, v)` (R11). -/
def State.setBuf (s : State) (b : BufIdx) (v : List Byte) : State := { s with bufs := s.bufs.set b v }

/-- The byte at an index of a buffer; a byte exists only below the buffer's length (R100). -/
def State.readByte (s : State) (b : BufIdx) (i : Nat) : Option Byte := (s.buf b)[i]?

/-- `MemRead(b, off, n)`: the `n` bytes from index `off` (R11). -/
def slice (v : List Byte) (off n : Nat) : List Byte := (v.drop off).take n

/-! ### Byte order (R10, R103) -/

/-- `le32(v)`: least significant byte first. -/
def le32 (v : BitVec 32) : List Byte :=
  [v.extractLsb' 0 8, v.extractLsb' 8 8, v.extractLsb' 16 8, v.extractLsb' 24 8]

/-- `rd32` of four bytes, the first the least significant. -/
def rd32 (b0 b1 b2 b3 : Byte) : BitVec 32 := b3 ++ b2 ++ b1 ++ b0

/-! ### The checksum (R200, R202) -/

/-- The reference checksum: the sum of the bytes mod 256, 0 for the empty string (R202). -/
def sumMod256 (v : List Byte) : Byte := v.foldl (· + ·) 0

/-- `CKSUM(v)`: one function for encoder, decoder and the `CKSUM` command (R200). -/
def checksum (p : Params) (v : List Byte) : Byte :=
  match p.cksum with
  | .sumMod256 => sumMod256 v
  | .unspecified k => Config.freeChecksum k v

/-! ### Control register views (R51..R61) -/

/-- The numeric encoding of a record's state (R47). -/
def RecState.code : RecState → BitVec 2
  | .registerPending => 0
  | .registerResponded => 1
  | .pollRequested => 2
  | .pollResponded => 3

/-- CR1 as software reads it: the hard-wired vendor byte above the user id (R53). -/
def State.networkId (s : State) : BitVec 16 := s.params.vendorByte ++ s.userId.value

/-- The radio channel: the low nibble of the user id (R53, R455). -/
def State.channel (s : State) : BitVec 4 := s.userId.value.extractLsb' 0 4

/-- `EXIT_CAUSE`'s two bits (R57). -/
def ExitCause.code : ExitCause → BitVec 2
  | .none => 0
  | .graceful => 1
  | .fatalIo => 2
  | .fatalAlloc => 3

/-- CR8 `ENG_STATUS`: `[0]` RUNNING, `[2:1]` EXIT_CAUSE, `[3]` CTRL_PENDING, `[31:4]` read 0 (R57). -/
def State.engStatus (s : State) : BitVec 32 :=
  (0 : BitVec 28) ++ BitVec.ofBool s.ctrlPending ++ s.exitCause.code ++ BitVec.ofBool s.running

/-- CR9 `INTENT`, `[31:5]` read 0 (R58). -/
def Intent.view (i : Intent) : BitVec 32 :=
  (0 : BitVec 27) ++ BitVec.ofBool i.processPending ++ BitVec.ofBool i.wantWriteUdp ++ BitVec.ofBool i.wantReadUdp
    ++ BitVec.ofBool i.wantWriteRadio ++ BitVec.ofBool i.wantReadRadio

/-- CR10 `REG_COUNT`: `[5:0]` = the registry's size, `[31:6]` read 0 (R59). -/
def State.regCount (s : State) : BitVec 32 := (BitVec.ofNat 6 s.registry.length).setWidth 32

/-- What reading a control register finds (R362). -/
inductive CrRead where
  /-- the register's value -/
  | value (v : BitVec 32)
  /-- a configuration register whose written bit is clear (R63) -/
  | unwritten
  /-- a reserved number (R61) -/
  | reserved
  deriving DecidableEq, Repr

/-- A configuration register read: its zero-extended value, where it has been written (R63). -/
def CfgReg.read {w : Nat} (r : CfgReg w) (v : BitVec 32) : CrRead := if r.written then .value v else .unwritten

/-- The one operation that reads control registers (R51..R61, R362). -/
def State.readCr (s : State) : CrNum → CrRead
  | .cr0 => s.localAddr.read s.localAddr.value
  | .cr1 => s.userId.read (s.networkId.setWidth 32)
  | .cr2 => s.dataRate.read s.dataRate.value
  | .cr3 => s.serverIp.read s.serverIp.value
  | .cr4 => s.serverPort.read (s.serverPort.value.setWidth 32)
  | .cr8 => .value s.engStatus
  | .cr9 => .value s.intent.view
  | .cr10 => .value s.regCount
  | .cr11 => .value s.waitTimeout
  | .cr5 | .cr6 | .cr7 | .cr12 | .cr13 | .cr14 | .cr15 => .reserved

/-! ### Codes the host sees (R430, R452) -/

/-- The number of a status code (R430). -/
def Status.code : Status → BitVec 8
  | .ok => 0
  | .none => 1
  | .badContent => 2
  | .notFound => 3
  | .capacityExceeded => 4
  | .stateMismatch => 5
  | .illegalCommand => 6
  | .busy => 7
  | .notRunning => 8
  | .allocFail => 9
  | .rangeError => 10
  | .unconfigured => 11
  | .exited => 12

/-- The number of a fatal cause (R366). -/
def FatalCause.code : FatalCause → BitVec 2
  | .io => 2
  | .alloc => 3

/-- The status a decode failure is reported as (R250, R430). -/
def DecodeFailure.status : DecodeFailure → Status
  | .none => .none
  | .badContent => .badContent

/-- The level of a log entry (R452). -/
def LogEntry.level : LogEntry → LogLevel
  | .duplicateReg _ | .badPacket _ | .unknownAddr _ | .stateMismatch _ | .unrecognizedCmd _ | .capacity _ => .warning
  | .evict _ => .info
  | .fatal _ => .error

/-- The code of a log entry (R452). -/
def LogEntry.code : LogEntry → Nat
  | .duplicateReg _ => 1
  | .badPacket _ => 2
  | .unknownAddr _ => 3
  | .stateMismatch _ => 4
  | .unrecognizedCmd _ => 5
  | .capacity _ => 6
  | .evict _ => 7
  | .fatal _ => 8

/-- The info of a log entry as a number (R452). -/
def LogEntry.info : LogEntry → BitVec 32
  | .duplicateReg a | .unknownAddr a | .stateMismatch a | .capacity a | .evict a => a
  | .badPacket st => st.status.code.setWidth 32
  | .unrecognizedCmd c => c.setWidth 32
  | .fatal c => c.code.setWidth 32

/-! ### The host's reading of the result ports (R42) -/

/-- A port read by the host: a port without a value is a fault for the reader, never a stale value (R42). -/
def readPort {α : Type} : Option α → Except Fault α
  | some v => .ok v
  | none => .error .portHoldsNoValue

/-- Reading `RES`. -/
def ResultPorts.readRes (r : ResultPorts) : Except Fault (BitVec 64) := readPort r.res

/-- Reading `OUT`. -/
def ResultPorts.readOut (r : ResultPorts) : Except Fault (List Byte) := readPort r.out

/-- Reading `PKT`. -/
def ResultPorts.readPkt (r : ResultPorts) : Except Fault Packet := readPort r.pkt

/-- Reading `REC`. -/
def ResultPorts.readRec (r : ResultPorts) : Except Fault SensorRecord := readPort r.record

/-- Reading `LIST`. -/
def ResultPorts.readList (r : ResultPorts) : Except Fault (List SensorRecord) := readPort r.list

end Sys2Proof.Machine
end

