-- ==== Sys2Proof/Machine/Ops.lean ====
section
/-!
DEFINITION. The shared operations: how a command ends, the guards of the stop-the-world rule, the log, the buffer write that
respects `BUF_CAP`, and the two stops of the engine (spec/00_scope.md R11, 43_relay_fsm.md R365, R366, 60_exceptions.md).
The block has no trap (R433, R434): a refused command ends with a status, and a fatal condition stops the engine; both
are next states.
-/

namespace Sys2Proof.Machine

/-- What a meaning answers. -/
abbrev Out := Host.Outcome State Fault Refusal

/-- Goes on with the next state, or stops as the first part stopped. -/
def andThen (o : Out) (k : State → Out) : Out :=
  match o with
  | .next s => k s
  | .fault r => .fault r
  | .refused r => .refused r

/-! ### How a command ends (R42, R430, R431) -/

/-- A command ends: the result ports hold what it wrote and nothing else (R42). -/
def State.finish (s : State) (r : ResultPorts) : State := { s with result := r }

/-- `raise <Status>()`: the command ends with that status, every other piece of state as it was (R11, R431). -/
def State.raise (s : State) (st : Status) : State := s.finish { status := st }

/-- A word that is no command, or one the block refuses as such: `ILLEGAL_COMMAND`, no other change, no log (R148). -/
def execIllegal (s : State) : Out := .next (s.raise .illegalCommand)

/-- The oldest pending command has completed; its word and ports are gone (R41, R140). -/
def State.retire (s : State) : State := { s with pending := s.pending.tail }

/-- The stop-the-world guard: a mutating host command is refused with `BUSY` while the engine runs (R112). -/
def whenStopped (s : State) (k : State → Out) : Out := if s.running then .next (s.raise .busy) else k s

/-- The guard of `ENG_STOP` and `ENG_ITER`: `NOT_RUNNING` while the engine is stopped (R361, R364). -/
def whenRunning (s : State) (k : State → Out) : Out := if s.running then k s else .next (s.raise .notRunning)

/-! ### Log and buffers -/

/-- `log(code, info)` (R452). -/
def State.addLog (s : State) (e : LogEntry) : State := { s with log := s.log ++ [e] }

/-- A host command's buffer write: `ALLOC_FAIL` and nothing written where the new contents exceed `BUF_CAP` (R44, R211). -/
def hostBufWrite (s : State) (b : BufIdx) (v : List Byte) : Out :=
  if v.length ≤ s.params.bufCap then .next ((s.setBuf b v).finish { status := .ok })
  else .next (s.raise .allocFail)

/-! ### The stops of the engine -/

/-- What both stops do to the session: buffers released, `INTENT` and `CTRL_PENDING` cleared, `RUNNING` 0, the cause
recorded (R365, R366, R482). The registry, `NEXT_SEQ`, the configuration and the output streams are kept. -/
def State.stopWith (s : State) (c : ExitCause) : State :=
  { s with bufs := .empty, intent := .clear, ctrlPending := false, running := false, exitCause := c }

/-- The exit cause a fatal stop records (R366). -/
def FatalCause.exitCause : FatalCause → ExitCause
  | .io => .fatalIo
  | .alloc => .fatalAlloc

/-- `fatal(cause)`: the resource-fatal stop (R366). -/
def State.fatal (s : State) (c : FatalCause) : State := (s.addLog (.fatal c)).stopWith c.exitCause

/-- The graceful stop, with the control channel drained (R365). -/
def State.gracefulStop (s : State) : State := s.stopWith .graceful

/-- A controller's buffer write: where the new contents exceed `BUF_CAP` nothing is written and the engine stops with
`fatal(FATAL_ALLOC)`, the rest skipped (R211, R366). -/
def State.ctlBufWrite (s : State) (b : BufIdx) (v : List Byte) (k : State → State) : State :=
  if v.length ≤ s.params.bufCap then k (s.setBuf b v) else s.fatal .alloc

end Sys2Proof.Machine
end

