-- ==== Sys2Proof/Machine/Buffer.lean ====
section
/-!
DEFINITION. Checksum and byte-buffer commands (spec/40_checksum_buffer.md R203, R210, R212..R214).
-/

namespace Sys2Proof.Machine

/-- `CKSUM`: checksum of a byte range of a buffer; `OFF + LEN` does not wrap (R203). -/
def execCksum (b : BufIdx) (s : State) : Out :=
  let off := s.ports.off.toNat
  let len := s.ports.len.toNat
  if (s.buf b).length < off + len then .next (s.raise .rangeError)
  else .next (s.finish { status := .ok, res := some ((checksum s.params (slice (s.buf b) off len)).setWidth 64) })

/-- `BUF_APPEND` (R210, R211). -/
def execBufAppend (b : BufIdx) (s : State) : Out :=
  whenStopped s fun s => hostBufWrite s b (s.buf b ++ s.ports.data)

/-- `BUF_RESET` (R212). -/
def execBufReset (b : BufIdx) (s : State) : Out :=
  whenStopped s fun s => .next ((s.setBuf b []).finish { status := .ok })

/-- `BUF_LEN` (R213). -/
def execBufLen (b : BufIdx) (s : State) : Out :=
  .next (s.finish { status := .ok, res := some (BitVec.ofNat 64 (s.buf b).length) })

/-- `BUF_READ` (R214). -/
def execBufRead (b : BufIdx) (s : State) : Out :=
  .next (s.finish { status := .ok, out := some (s.buf b) })

end Sys2Proof.Machine
end

