-- ==== Sys2Proof/Machine/Codec.lean ====
section
/-!
DEFINITION. The packet codec: the serializer, the decoder with its resynchronisation policy, and the codec commands
(spec/41_codec.md R240..R262, spec/30_encoding.md R160..R168).
-/

namespace Sys2Proof.Machine

/-! ### Serialization (R240) -/

/-- The nine bytes of a reading in wire order (R50, R164). -/
def Reading.bytes (r : Reading) : List Byte :=
  [r.type, r.value0, r.value1, r.value2, r.value3, r.voltage, r.battery, r.flags, r.watchdogId]

/-- The content without its checksum: `le32(dest) ++ le32(src) ++ [cmd]`, then the reading if there is one (R240). -/
def contentBody (cmd : Byte) (dest src : Addr) (rd : Option Reading) : List Byte :=
  le32 dest ++ le32 src ++ [cmd] ++
    match rd with
    | none => []
    | some r => r.bytes

/-- A byte string followed by its checksum (R161, R163, R164). -/
def sealed (p : Params) (v : List Byte) : List Byte := v ++ [checksum p v]

/-- `serialize(cmd, dest, src, rd)`: header `[PRE0, PRE1, n, headerChecksum]`, then the content with its checksum; `n`
counts the checksum byte (R166, R240). -/
def serialize (p : Params) (cmd : Byte) (dest src : Addr) (rd : Option Reading) : List Byte :=
  let content := sealed p (contentBody cmd dest src rd)
  sealed p [p.pre0, p.pre1, BitVec.ofNat 8 content.length] ++ content

/-! ### The decoder (R250..R258) -/

/-- How a decode ends (R250). -/
inductive DecodeResult where
  /-- `OK`, with the packet -/
  | ok (pkt : Packet)
  /-- `NONE` or `BAD_CONTENT` -/
  | fail (f : DecodeFailure)
  deriving DecidableEq, Repr

/-- The byte at an index of the content, which has it whenever the decoder asks. -/
def byteAt (c : List Byte) (i : Nat) : Byte := c.getD i 0

/-- The reading in a data content (R258). -/
def parseReading (c : List Byte) : Reading where
  type := byteAt c 9
  value0 := byteAt c 10
  value1 := byteAt c 11
  value2 := byteAt c 12
  value3 := byteAt c 13
  voltage := byteAt c 14
  battery := byteAt c 15
  flags := byteAt c 16
  watchdogId := byteAt c 17

/-- `parse(i, n, h, c)`: the packet at offset `i` with content `c` of length `n`; the shape follows `contentLength`, not the
command byte (R167, R258). -/
def parsePacket (i : Nat) (n h : Byte) (c : List Byte) : Packet where
  offset := i
  contentLength := n
  headerChecksum := h
  dest := rd32 (byteAt c 0) (byteAt c 1) (byteAt c 2) (byteAt c 3)
  src := rd32 (byteAt c 4) (byteAt c 5) (byteAt c 6) (byteAt c 7)
  command := byteAt c 8
  reading := if n = Config.clData then some (parseReading c) else none
  contentChecksum := byteAt c (n.toNat - 1)

/-- What follows a validated header at offset `i`: an illegal `contentLength` is `BAD_CONTENT` (R255), missing content is
`NONE` (R256), a checksum mismatch is `BAD_CONTENT` without resync (R257), a match is the packet (R258). `after` holds the
bytes behind the header. -/
def checkContent (p : Params) (i : Nat) (n h : Byte) (after : List Byte) : DecodeResult :=
  if n ≠ Config.clCtrl ∧ n ≠ Config.clData then .fail .badContent
  else if after.length < n.toNat then .fail .none
  else
    let c := after.take n.toNat
    if checksum p (c.take (n.toNat - 1)) = byteAt c (n.toNat - 1) then .ok (parsePacket i n h c)
    else .fail .badContent

/-- One offset of the scan, on the bytes from it to the buffer's end: outside the scan window the decode ends with `NONE`
(R253); a preamble with a matching header checksum ends it one way or another; no answer means advance by one byte (R254). -/
def checkOffset (p : Params) (i : Nat) (v : List Byte) : Option DecodeResult :=
  match v with
  | b0 :: b1 :: n :: h :: after =>
    if b0 = p.pre0 ∧ b1 = p.pre1 ∧ checksum p [b0, b1, n] = h then some (checkContent p i n h after) else none
  | _ => some (.fail .none)

/-- The scan from offset `i`, one byte at a time (R252, R253). -/
def scanFrom (p : Params) (i : Nat) : List Byte → DecodeResult
  | [] => .fail .none
  | b :: v =>
    match checkOffset p i (b :: v) with
    | some r => r
    | none => scanFrom p (i + 1) v

/-- `decode(b)`, the body of `DECODE` (R252). -/
def decodeBytes (p : Params) (v : List Byte) : DecodeResult := scanFrom p 0 v

/-- The Option projection of a decode (R259). -/
def DecodeResult.toOption : DecodeResult → Option Packet
  | .ok pkt => some pkt
  | .fail _ => none

/-! ### The commands -/

/-- The shared body of the encoders: the target buffer is overwritten with one packet (R245). -/
def encodeInto (s : State) (b : BufIdx) (cmd : Byte) (rd : Option Reading) : Out :=
  whenStopped s fun s => hostBufWrite s b (serialize s.params cmd s.ports.a s.ports.b rd)

/-- `ENC_RREQ` (R241). -/
def execEncRreq (b : BufIdx) (s : State) : Out := encodeInto s b s.params.cmdRreq none

/-- `ENC_RRSP` (R242). -/
def execEncRrsp (b : BufIdx) (s : State) : Out := encodeInto s b s.params.cmdRrsp none

/-- `ENC_DREQ` (R243). -/
def execEncDreq (b : BufIdx) (s : State) : Out := encodeInto s b s.params.cmdDreq none

/-- `ENC_DRSP` (R244). -/
def execEncDrsp (b : BufIdx) (s : State) : Out := encodeInto s b s.params.cmdDrsp (some s.ports.rd)

/-- The result ports of a decode: `PKT` and `RES` only when the status is `OK` (R251, R252). -/
def DecodeResult.ports : DecodeResult → ResultPorts
  | .ok pkt => { status := .ok, res := some (BitVec.ofNat 64 pkt.offset), pkt := some pkt }
  | .fail f => { status := f.status }

/-- `DECODE`: the buffer is not cleared (R252). -/
def execDecode (b : BufIdx) (s : State) : Out := .next (s.finish (decodeBytes s.params (s.buf b)).ports)

end Sys2Proof.Machine
end

