-- ==== Sys2Proof/Machine/Engine.lean ====
section
/-!
DEFINITION. Engine control commands: start, stop request, configuration reads and writes (spec/43_relay_fsm.md R360..R363).
-/

namespace Sys2Proof.Machine

/-- Every configuration register CR0..CR4 has been written (R63). -/
def State.configured (s : State) : Bool :=
  s.localAddr.written && s.userId.written && s.dataRate.written && s.serverIp.written && s.serverPort.written

/-- The state a successful start establishes (R360, R481). -/
def State.started (s : State) : State :=
  { s with
    sLocal := s.localAddr.value
    sServerIp := s.serverIp.value
    sServerPort := s.serverPort.value
    devcap := s.devcap ++ [.setNetworkId s.networkId, .setFrequency s.channel, .setDataRate s.dataRate.value]
    bufs := .empty
    intent := .readRadio
    ctrlPending := false
    exitCause := .none
    running := true }

/-- `ENG_START` (R360). -/
def execEngStart (s : State) : Out :=
  whenStopped s fun s =>
    if s.configured then .next (s.started.finish { status := .ok }) else .next (s.raise .unconfigured)

/-- `ENG_STOP`: writes the control channel; the engine stops at a later wait (R361). -/
def execEngStop (s : State) : Out :=
  whenRunning s fun s => .next ({ s with ctrlPending := true }.finish { status := .ok })

/-- `CFG_READ` (R362). -/
def execCfgRead (n : CrNum) (s : State) : Out :=
  match s.readCr n with
  | .reserved => .next (s.raise .illegalCommand)
  | .unwritten => .next (s.raise .unconfigured)
  | .value v => .next (s.finish { status := .ok, res := some (v.setWidth 64) })

/-- A user id in `[0x01, 0xF0]` (R53). -/
def userIdLegal (v : Byte) : Bool := decide (Config.userIdMin ≤ v ∧ v ≤ Config.userIdMax)

/-- A configuration write accepted by the checks: the register takes the value and its written bit is set. The bits of
`VAL` above a register's stored field are ignored (R53, R56, R63). The numbers that are not configuration registers hold
nothing to write. -/
def State.writeCr (s : State) (n : CrNum) (val : BitVec 32) : State :=
  match n with
  | .cr0 => { s with localAddr := ⟨val, true⟩ }
  | .cr1 => { s with userId := ⟨val.extractLsb' 0 8, true⟩ }
  | .cr2 => { s with dataRate := ⟨val, true⟩ }
  | .cr3 => { s with serverIp := ⟨val, true⟩ }
  | .cr4 => { s with serverPort := ⟨val.extractLsb' 0 16, true⟩ }
  | .cr5 | .cr6 | .cr7 | .cr8 | .cr9 | .cr10 | .cr11 | .cr12 | .cr13 | .cr14 | .cr15 => s

/-- The registers `CFG_WRITE` may name, CR0..CR4 (R363). -/
def writableCr : CrNum → Bool
  | .cr0 | .cr1 | .cr2 | .cr3 | .cr4 => true
  | .cr5 | .cr6 | .cr7 | .cr8 | .cr9 | .cr10 | .cr11 | .cr12 | .cr13 | .cr14 | .cr15 => false

/-- `CFG_WRITE`: a number that is reserved or read-only is refused before `BUSY` is looked at (R363, R436). -/
def execCfgWrite (n : CrNum) (s : State) : Out :=
  if writableCr n then
    whenStopped s fun s =>
      if n = .cr1 ∧ userIdLegal (s.ports.val.extractLsb' 0 8) = false then .next (s.raise .rangeError)
      else .next ((s.writeCr n s.ports.val).finish { status := .ok })
  else .next (s.raise .illegalCommand)

end Sys2Proof.Machine
end

