-- ==== Sys2Proof/Machine/Registry.lean ====
section
/-!
DEFINITION. The sensor registry: the operation bodies the host's commands and the relay controller share, and the registry
commands (spec/42_registry.md R300..R316). The registry list is in iteration order, newest record first (R300).
-/

namespace Sys2Proof.Machine

/-! ### Operation bodies -/

/-- `find(addr)`: exact match (R303). -/
def findRecord (reg : List SensorRecord) (a : Addr) : Option SensorRecord := reg.find? fun r => r.address == a

/-- Changes the record of an address. -/
def updateRecord (reg : List SensorRecord) (a : Addr) (f : SensorRecord → SensorRecord) : List SensorRecord :=
  reg.map fun r => if r.address = a then f r else r

/-- `remove(addr)`: deletes the record of an address (R304). -/
def removeRecord (reg : List SensorRecord) (a : Addr) : List SensorRecord := reg.filter fun r => r.address ≠ a

/-- Whether `r` is polled before `q`: the smaller `lastRequestTime`, ties to the larger `seq` (R305). -/
def duerThan (r q : SensorRecord) : Bool :=
  decide (r.lastRequestTime < q.lastRequestTime ∨ (r.lastRequestTime = q.lastRequestTime ∧ q.seq < r.seq))

/-- `findEarliest()` (R305). -/
def findEarliest : List SensorRecord → Option SensorRecord
  | [] => none
  | r :: rest =>
    match findEarliest rest with
    | none => some r
    | some q => if duerThan q r then some q else some r

/-- The unanswered-poll deficit, mod 2^32 (R306). -/
def SensorRecord.deficit (r : SensorRecord) : BitVec 32 := r.requestCount - r.responseCount

/-- `findOffline(threshold)`: the first record in iteration order with deficit at least the threshold (R307). -/
def findOffline (reg : List SensorRecord) (threshold : Nat) : Option SensorRecord :=
  reg.find? fun r => decide (threshold ≤ r.deficit.toNat)

/-- The record `create(A)` makes (R302). -/
def newRecord (a : Addr) (seq : BitVec 64) : SensorRecord where
  address := a
  state := .registerPending
  requestCount := 0
  responseCount := 0
  lastRequestTime := 0
  lastReading := none
  seq := seq

/-- How `add(addr)` ends (R301). -/
inductive AddResult where
  /-- the source is outside the valid range, with `SRC_RANGE_CHECK` -/
  | rangeError
  /-- 32 records exist -/
  | capacityExceeded
  /-- `NEXT_SEQ` is 2^64 - 1 (R302; log entry 12) -/
  | seqExhausted
  /-- the address is known: its record, unchanged -/
  | duplicate (r : SensorRecord)
  /-- a record was created -/
  | created (r : SensorRecord)
  deriving DecidableEq, Repr

/-- The checks of `add(addr)`, in the order the rule lists them (R301, R316, R436). -/
def addCheck (s : State) (a : Addr) : AddResult :=
  if s.params.srcRangeCheck = true ∧ (a < Config.addrMin ∨ Config.addrMax < a) then .rangeError
  else if Config.cap ≤ s.registry.length then .capacityExceeded
  else
    match findRecord s.registry a with
    | some r => .duplicate r
    | none => if s.nextSeq = BitVec.allOnes 64 then .seqExhausted else .created (newRecord a s.nextSeq)

/-- `create(A)`: the record enters at the front of the iteration order and `NEXT_SEQ` advances (R300, R302). -/
def State.insertRecord (s : State) (r : SensorRecord) : State :=
  { s with registry := r :: s.registry, nextSeq := s.nextSeq + 1 }

/-- What `recordPollRequest` does to its record; the count wraps (R308). -/
def SensorRecord.pollRequested (r : SensorRecord) (now : Time) : SensorRecord :=
  { r with state := .pollRequested, requestCount := r.requestCount + 1, lastRequestTime := now }

/-- What `recordPollResponse` does to its record; the count wraps (R309). -/
def SensorRecord.pollResponded (r : SensorRecord) (rd : Reading) : SensorRecord :=
  { r with state := .pollResponded, responseCount := r.responseCount + 1, lastReading := some rd }

/-- Changes the record of an address in the state's registry. -/
def State.updateRecord (s : State) (a : Addr) (f : SensorRecord → SensorRecord) : State :=
  { s with registry := Sys2Proof.Machine.updateRecord s.registry a f }

/-- Deletes the record of an address from the state's registry; `NEXT_SEQ` is not changed (R304). -/
def State.removeRecord (s : State) (a : Addr) : State :=
  { s with registry := Sys2Proof.Machine.removeRecord s.registry a }

/-! ### The commands -/

/-- A lookup's result: the record's snapshot in `REC`, or `NONE` (R303, R305, R307). -/
def lookupPorts : Option SensorRecord → ResultPorts
  | some r => { status := .ok, record := some r }
  | none => { status := .none }

/-- `REG_FIND` (R303). -/
def execRegFind (s : State) : Out := .next (s.finish (lookupPorts (findRecord s.registry s.ports.a)))

/-- `REG_ADD`: a duplicate is a success with a warning, `RES` tells the two apart (R301). -/
def execRegAdd (s : State) : Out :=
  whenStopped s fun s =>
    match addCheck s s.ports.a with
    | .rangeError => .next (s.raise .rangeError)
    | .capacityExceeded => .next (s.raise .capacityExceeded)
    | .seqExhausted => .refused .seqExhausted
    | .duplicate r =>
      .next ((s.addLog (.duplicateReg s.ports.a)).finish { status := .ok, res := some 1, record := some r })
    | .created r => .next ((s.insertRecord r).finish { status := .ok, res := some 0, record := some r })

/-- `REG_REMOVE` (R304). -/
def execRegRemove (s : State) : Out :=
  whenStopped s fun s =>
    match findRecord s.registry s.ports.a with
    | none => .next (s.raise .notFound)
    | some _ => .next ((s.removeRecord s.ports.a).finish { status := .ok })

/-- `REG_EARLIEST` (R305). -/
def execRegEarliest (s : State) : Out := .next (s.finish (lookupPorts (findEarliest s.registry)))

/-- `REG_OFFLINE` (R307). -/
def execRegOffline (s : State) : Out := .next (s.finish (lookupPorts (findOffline s.registry s.ports.t.toNat)))

/-- `REG_POLLREQ`: from every state (R308, R312). -/
def execRegPollreq (s : State) : Out :=
  whenStopped s fun s =>
    match findRecord s.registry s.ports.a with
    | none => .next (s.raise .notFound)
    | some r =>
      .next ((s.updateRecord s.ports.a (·.pollRequested s.ports.now)).finish
        { status := .ok, record := some (r.pollRequested s.ports.now) })

/-- `REG_POLLRSP`: only from `PollRequested` (R309). -/
def execRegPollrsp (s : State) : Out :=
  whenStopped s fun s =>
    match findRecord s.registry s.ports.a with
    | none => .next (s.raise .notFound)
    | some r =>
      if r.state = .pollRequested then
        .next ((s.updateRecord s.ports.a (·.pollResponded s.ports.rd)).finish
          { status := .ok, record := some (r.pollResponded s.ports.rd) })
      else .next (s.raise .stateMismatch)

/-- `REG_SIZE` (R310). -/
def execRegSize (s : State) : Out :=
  .next (s.finish { status := .ok, res := some (BitVec.ofNat 64 s.registry.length) })

/-- `REG_LIST`: every record in iteration order (R311). -/
def execRegList (s : State) : Out := .next (s.finish { status := .ok, list := some s.registry })

end Sys2Proof.Machine
end

