-- ==== Sys2Proof/Machine/Iteration.lean ====
section
/-!
DEFINITION. One iteration of the relay loop: the common part, the seven wait outcomes, the scheduling tick, and receive
processing with its dispatch (spec/43_relay_fsm.md R364..R398).
-/

namespace Sys2Proof.Machine

/-! ### The scheduling tick (R380) -/

/-- Evicts the first offline record in iteration order, if there is one (R380, R381). -/
def State.evictOffline (s : State) : State :=
  match findOffline s.registry (threshold s.params) with
  | none => s
  | some o => (s.addLog (.evict o.address)).removeRecord o.address

/-- Polls the earliest-due record, if there is one: its request is recorded, the DataRequest replaces what `RWB` held, and
the intent becomes {writeRadio}; an empty registry changes nothing (R380, R382, R491). -/
def State.pollEarliest (s : State) (now : Time) : State :=
  match findEarliest s.registry with
  | none => s
  | some e =>
    let s := s.updateRecord e.address (·.pollRequested now)
    s.ctlBufWrite .rwb (serialize s.params s.params.cmdDreq e.address s.sLocal none) fun s =>
      { s with intent := .writeRadio }

/-- `tick(NOW)` (R380). -/
def State.tick (s : State) (now : Time) : State := s.evictOffline.pollEarliest now

/-! ### Receive processing and dispatch (R390..R398) -/

/-- `INTENT[3:0] <- io`. -/
def State.setIo (s : State) (io : Intent) : State := { s with intent := s.intent.withIo io }

/-- `drop`: the packet is discarded and the radio is armed for reading (R398). -/
def State.drop (s : State) : State := s.setIo .readRadio

/-- A packet dropped with a log entry (R391..R393). -/
def State.dropWith (s : State) (e : LogEntry) : State := (s.addLog e).drop

/-- A registration response moves `RegisterPending` to `RegisterResponded` and leaves every other state (R312, R391). -/
def SensorRecord.registered (r : SensorRecord) : SensorRecord :=
  if r.state = .registerPending then { r with state := .registerResponded } else r

/-- The accepted registration: the record advances and the RegisterResponse is staged (R391). -/
def State.stageRegisterResponse (s : State) (src : Addr) : State :=
  (s.updateRecord src SensorRecord.registered).ctlBufWrite .rwb
    (serialize s.params s.params.cmdRrsp src s.sLocal none) fun s => s.setIo .writeRadio

/-- Dispatch of a RegisterRequest (R391). -/
def dispatchRegisterRequest (pkt : Packet) (s : State) : Out :=
  if pkt.dest ≠ Config.broadcast then .next (s.dropWith (.unknownAddr pkt.dest))
  else
    match addCheck s pkt.src with
    | .rangeError => .next (s.dropWith (.unknownAddr pkt.src))
    | .capacityExceeded => .next (s.dropWith (.capacity pkt.src))
    | .seqExhausted => .refused .seqExhausted
    | .duplicate _ => .next ((s.addLog (.duplicateReg pkt.src)).stageRegisterResponse pkt.src)
    | .created r => .next ((s.insertRecord r).stageRegisterResponse pkt.src)

/-- The accepted poll response: the record takes the reading and the 19 content bytes become the datagram (R392, R170). -/
def State.stageDatagram (s : State) (pkt : Packet) (rd : Reading) : State :=
  (s.updateRecord pkt.src (·.pollResponded rd)).ctlBufWrite .uwb
    (slice s.bufs.rrb (pkt.offset + Config.hdrLen) Config.clData.toNat) fun s => s.setIo .writeUdp

/-- Dispatch of a DataResponse (R392). A packet without a reading is one without data content (R251). -/
def dispatchDataResponse (pkt : Packet) (s : State) : State :=
  if pkt.dest ≠ s.sLocal then s.dropWith (.unknownAddr pkt.dest)
  else if pkt.contentLength ≠ Config.clData then s.dropWith (.unrecognizedCmd pkt.command)
  else
    match pkt.reading with
    | none => s.dropWith (.unrecognizedCmd pkt.command)
    | some rd =>
      match findRecord s.registry pkt.src with
      | none => s.dropWith (.stateMismatch pkt.src)
      | some r =>
        if r.state = .pollRequested then s.stageDatagram pkt rd else s.dropWith (.stateMismatch pkt.src)

/-- `dispatch(PKT)`: by the command byte; any command but the two is dropped (R391..R393). -/
def dispatch (pkt : Packet) (s : State) : Out :=
  if pkt.command = s.params.cmdRreq then dispatchRegisterRequest pkt s
  else if pkt.command = s.params.cmdDrsp then .next (dispatchDataResponse pkt s)
  else .next (s.dropWith (.unrecognizedCmd pkt.command))

/-- The end of `process()`: `RRB` is cleared whatever the decode's status, and `processPending` with it (R390). -/
def State.endProcess (s : State) : State :=
  { s.setBuf .rrb [] with intent := { s.intent with processPending := false } }

/-- `process()` (R390). -/
def process (s : State) : Out :=
  match decodeBytes s.params s.bufs.rrb with
  | .ok pkt => andThen (dispatch pkt s) fun s => .next s.endProcess
  | .fail f => .next (s.dropWith (.badPacket f)).endProcess

/-! ### One iteration (R364) -/

/-- The end of an iteration: `OK` while the engine runs, `EXITED` when it stopped (R364). -/
def State.endIteration (s : State) : State := s.finish { status := if s.running then .ok else .exited }

/-- The common part of every `ENG_ITER`: the guards, the wait timeout of the registry at the start of the iteration, the
outcome's own rule, then `process()` where a radio read left `processPending` set (R364, R368, R378). -/
def engIter (o : WaitOutcome) (rule : State → State) (s : State) : Out :=
  whenRunning s fun s =>
    if admissible s s.ports.iores o then
      let s := rule { s with waitTimeout := waitTimeoutFor s.registry.length }
      andThen (if s.running && s.intent.processPending then process s else .next s) fun s => .next s.endIteration
    else .next (s.raise .illegalCommand)

/-- The rule of a radio read (R374). -/
def State.radioRead (s : State) : IoRes → State
  | .bytes v => s.ctlBufWrite .rrb (s.bufs.rrb ++ v) fun s => { s with intent := .processing }
  | .wouldBlock => s
  | .eof | .error => s.fatal .io
  | .ok => s

/-- The rule of a radio write (R375). -/
def State.radioWrite (s : State) : IoRes → State
  | .ok => { s.setBuf .rwb [] with radioTx := s.radioTx ++ [s.bufs.rwb], intent := .readRadio }
  | .wouldBlock => s
  | .error => s.fatal .io
  | .bytes _ | .eof => s

/-- The rule of a UDP send (R376). -/
def State.udpSend (s : State) : IoRes → State
  | .ok =>
    { s.setBuf .uwb [] with
      udpTx := s.udpTx ++ [⟨s.sServerIp, s.sServerPort, s.bufs.uwb⟩]
      intent := .readRadio }
  | .wouldBlock => s
  | .error => s.fatal .io
  | .bytes _ | .eof => s

/-- `ENG_ITER.HARDERR` (R371). -/
def execEngIterHarderr (s : State) : Out := engIter .hardErr (·.fatal .io) s

/-- `ENG_ITER.INTR`: nothing beyond the common part (R372). -/
def execEngIterIntr (s : State) : Out := engIter .intr id s

/-- `ENG_ITER.TIMEOUT` (R373). -/
def execEngIterTimeout (s : State) : Out := engIter .timeout (·.tick s.ports.now) s

/-- `ENG_ITER.CTRL` (R377). -/
def execEngIterCtrl (s : State) : Out := engIter .ctrl State.gracefulStop s

/-- `ENG_ITER.RXRDY` (R374). -/
def execEngIterRxrdy (s : State) : Out := engIter .rxRdy (·.radioRead s.ports.iores) s

/-- `ENG_ITER.TXRDY` (R375). -/
def execEngIterTxrdy (s : State) : Out := engIter .txRdy (·.radioWrite s.ports.iores) s

/-- `ENG_ITER.UDPRDY` (R376). -/
def execEngIterUdprdy (s : State) : Out := engIter .udpRdy (·.udpSend s.ports.iores) s

end Sys2Proof.Machine
end

