-- ==== Sys2Proof/Machine/Dispatch.lean ====
section
/-!
DEFINITION. The one dispatch from an instruction to its meaning (spec/30_encoding.md R142, R145).
-/

namespace Sys2Proof.Machine

def exec (i : Instr) (s : State) : Host.Outcome State Fault Refusal :=
  match i with
  -- buffer class
  | .cksum b => Sys2Proof.Machine.execCksum b s
  | .bufAppend b => Sys2Proof.Machine.execBufAppend b s
  | .bufReset b => Sys2Proof.Machine.execBufReset b s
  | .bufLen b => Sys2Proof.Machine.execBufLen b s
  | .bufRead b => Sys2Proof.Machine.execBufRead b s
  -- codec class
  | .encRreq b => Sys2Proof.Machine.execEncRreq b s
  | .encRrsp b => Sys2Proof.Machine.execEncRrsp b s
  | .encDreq b => Sys2Proof.Machine.execEncDreq b s
  | .encDrsp b => Sys2Proof.Machine.execEncDrsp b s
  | .decode b => Sys2Proof.Machine.execDecode b s
  -- registry class
  | .regFind => Sys2Proof.Machine.execRegFind s
  | .regAdd => Sys2Proof.Machine.execRegAdd s
  | .regRemove => Sys2Proof.Machine.execRegRemove s
  | .regEarliest => Sys2Proof.Machine.execRegEarliest s
  | .regOffline => Sys2Proof.Machine.execRegOffline s
  | .regPollreq => Sys2Proof.Machine.execRegPollreq s
  | .regPollrsp => Sys2Proof.Machine.execRegPollrsp s
  | .regSize => Sys2Proof.Machine.execRegSize s
  | .regList => Sys2Proof.Machine.execRegList s
  -- engine class
  | .engStart => Sys2Proof.Machine.execEngStart s
  | .engStop => Sys2Proof.Machine.execEngStop s
  | .cfgRead n => Sys2Proof.Machine.execCfgRead n s
  | .cfgWrite n => Sys2Proof.Machine.execCfgWrite n s
  -- engine iteration
  | .engIterHarderr => Sys2Proof.Machine.execEngIterHarderr s
  | .engIterIntr => Sys2Proof.Machine.execEngIterIntr s
  | .engIterTimeout => Sys2Proof.Machine.execEngIterTimeout s
  | .engIterCtrl => Sys2Proof.Machine.execEngIterCtrl s
  | .engIterRxrdy => Sys2Proof.Machine.execEngIterRxrdy s
  | .engIterTxrdy => Sys2Proof.Machine.execEngIterTxrdy s
  | .engIterUdprdy => Sys2Proof.Machine.execEngIterUdprdy s

end Sys2Proof.Machine
end

