-- ==== Sys2Proof/Machine/Step.lean ====
section
/-!
DEFINITION. One step: the block accepts the oldest pending command and performs it to completion (spec/30_encoding.md R140,
20_memory.md R107, R111). There is no pc and no fetch (10_state.md R40).
-/

namespace Sys2Proof.Machine

/-- One step. With no command pending the block idles (log entry 5); a word that is no command is refused with
`ILLEGAL_COMMAND` (R148); a command is executed. In both cases the command is then gone. -/
def step (s : State) : Host.Outcome State Fault Refusal :=
  match s.pending with
  | [] => .next s
  | c :: _ =>
    andThen
      (match decodeWord c.word with
        | .ok i => exec i s
        | .error _ => execIllegal s)
      fun s => .next s.retire

/-- The state with a given word as the next command: it takes the place of the oldest pending command's word, whose ports
stay, or enters an empty stream with idle ports (log entries 4 and 6). Bits above the one 16-bit word do not exist (R149). -/
def State.withFetchWord (s : State) (_nbits w : Nat) : State :=
  { s with pending := ⟨BitVec.ofNat 16 w, s.ports⟩ :: s.pending.tail }

end Sys2Proof.Machine
end

