-- ==== Sys2Proof/Safety.lean ====
section
/-!
DEFINITION. What counts as a safe state, in the terms the claims use: the parameters' constraints, the law of the checksum,
and the invariants the spec states of the block (spec/00_scope.md R8, 10_state.md R44, R48, R64, R66, 43_relay_fsm.md R399).
-/

namespace Sys2Proof.Safety

open Sys2Proof.Machine

/-- A byte string with bit `j` of the byte at index `k` inverted (R201). -/
def flipBit (v : List Byte) (k j : Nat) : List Byte := v.modify k fun b => b ^^^ BitVec.twoPow 8 j

/-- The single-bit law (R201): inverting exactly one bit of a byte string changes its checksum. -/
def SingleBitLaw (f : List Byte → Byte) : Prop :=
  ∀ (v : List Byte) (k j : Nat), k < v.length → j < 8 → f (flipBit v k j) ≠ f v

/-- The four command bytes are pairwise distinct (R8). -/
abbrev CommandsDistinct (p : Params) : Prop := [p.cmdRreq, p.cmdRrsp, p.cmdDreq, p.cmdDrsp].Nodup

/-- The constraints R8 puts on the parameters, but for the checksum's law. -/
abbrev ParamsLegal (p : Params) : Prop := CommandsDistinct p ∧ 1 ≤ p.offlineCycles ∧ 23 ≤ p.bufCap

/-- No buffer is longer than `BUF_CAP` (R44). -/
abbrev BuffersFit (s : State) : Prop :=
  s.bufs.rrb.length ≤ s.params.bufCap ∧ s.bufs.rwb.length ≤ s.params.bufCap ∧
    s.bufs.urb.length ≤ s.params.bufCap ∧ s.bufs.uwb.length ≤ s.params.bufCap

/-- The registry's invariants (R48), the iteration order among them: the newest record stands first (R300), so no two
records share a `seq`. -/
abbrev RegistryInv (s : State) : Prop :=
  s.registry.length ≤ Config.cap ∧ (s.registry.map (·.address)).Nodup ∧
    s.registry.Pairwise (fun r q => q.seq < r.seq) ∧ ∀ r ∈ s.registry, r.seq < s.nextSeq

/-- The iteration invariant of a running engine (R399, R64). -/
abbrev IterationInv (s : State) : Prop :=
  s.running = true →
    s.intent.processPending = false ∧ s.bufs.rrb = [] ∧ s.bufs.urb = [] ∧
      (s.intent = .readRadio ∨ s.intent = .writeRadio ∨ s.intent = .writeUdp) ∧
      (s.bufs.rwb ≠ [] ↔ s.intent = .writeRadio) ∧ (s.intent = .writeUdp → s.bufs.uwb ≠ [])

/-- While the engine runs, the latches agree with the registers they were read from, which are all written (R66). -/
abbrev LatchInv (s : State) : Prop :=
  s.running = true →
    s.configured = true ∧ s.sLocal = s.localAddr.value ∧ s.sServerIp = s.serverIp.value ∧
      s.sServerPort = s.serverPort.value

/-- What a stopped engine leaves: no intent, no pending shutdown (R482, R67). -/
abbrev StoppedInv (s : State) : Prop := s.running = false → s.intent = .clear ∧ s.ctrlPending = false

/-- A written user id is a legal one (R53). -/
abbrev UserIdInv (s : State) : Prop := s.userId.written = true → userIdLegal s.userId.value = true

/-- A safe state. -/
abbrev Inv (s : State) : Prop :=
  BuffersFit s ∧ RegistryInv s ∧ IterationInv s ∧ LatchInv s ∧ StoppedInv s ∧ UserIdInv s

end Sys2Proof.Safety
end

