-- ==== Sys2Proof/Certificates/Slice0/Obligations.lean ====
section
/-!
DEFINITION. The statements about the model, one per rule or group of rules of spec/, and the vocabulary they are written in.
Statements about the parameters are over every parameter value, since the parameters are part of the state (R7). Where a statement says that a command that failed leaves a result port it
names without a value, that clause is the model's deduction (log entry 7; R42 says it of the ports a command does not name).
-/

open Sys2Proof
open Sys2Proof.Machine
open Sys2Proof.Safety

namespace Sys2Proof.Claims

/-! ### Vocabulary -/

/-- One row of spec/opcode_table.json: its `mask` and its `match`. -/
structure OpcodeRow where
  mask : CmdWord
  pattern : CmdWord

/-- The rows of spec/opcode_table.json, in the table's order. -/
def opcodeRows : List OpcodeRow :=
  [⟨0xFF3F, 0x0100⟩, ⟨0xFF3F, 0x0200⟩, ⟨0xFF3F, 0x0300⟩, ⟨0xFF3F, 0x0400⟩, ⟨0xFF3F, 0x0500⟩] ++
  [⟨0xFF3F, 0x1000⟩, ⟨0xFF3F, 0x1100⟩, ⟨0xFF3F, 0x1200⟩, ⟨0xFF3F, 0x1300⟩, ⟨0xFF3F, 0x1400⟩] ++
  [⟨0xFFFF, 0x2000⟩, ⟨0xFFFF, 0x2100⟩, ⟨0xFFFF, 0x2200⟩, ⟨0xFFFF, 0x2300⟩, ⟨0xFFFF, 0x2400⟩] ++
  [⟨0xFFFF, 0x2500⟩, ⟨0xFFFF, 0x2600⟩, ⟨0xFFFF, 0x2700⟩, ⟨0xFFFF, 0x2800⟩] ++
  [⟨0xFFFF, 0x3000⟩, ⟨0xFFFF, 0x3100⟩, ⟨0xFFF0, 0x3200⟩, ⟨0xFFF0, 0x3300⟩] ++
  [⟨0xFFFF, 0x3400⟩, ⟨0xFFFF, 0x3401⟩, ⟨0xFFFF, 0x3402⟩, ⟨0xFFFF, 0x3403⟩] ++
  [⟨0xFFFF, 0x3404⟩, ⟨0xFFFF, 0x3405⟩, ⟨0xFFFF, 0x3406⟩]

/-- The legal command words, from the field rules: the operation map, the must-be-zero fields, the reserved outcome and the
reserved register numbers (R141, R142, R145, R148, R61). -/
def LegalWord (w : CmdWord) : Prop :=
  let opc := w.extractLsb' 8 8
  let buf := w.extractLsb' 6 2
  let sub := w.extractLsb' 0 6
  (opc ∈ [0x01, 0x02, 0x03, 0x04, 0x05, 0x10, 0x11, 0x12, 0x13, 0x14] ∧ sub = 0) ∨
  (opc ∈ [0x20, 0x21, 0x22, 0x23, 0x24, 0x25, 0x26, 0x27, 0x28, 0x30, 0x31] ∧ buf = 0 ∧ sub = 0) ∨
  (opc ∈ [0x32, 0x33] ∧ buf = 0 ∧ sub ≤ 15 ∧ sub ∉ [5, 6, 7, 12, 13, 14, 15]) ∨
  (opc = 0x34 ∧ buf = 0 ∧ sub ≤ 6)

/-- The control packet of R161 and R163, byte by byte. -/
def controlPacket (p : Params) (cmd : Byte) (dest src : Addr) : List Byte :=
  let d := [dest.extractLsb' 0 8, dest.extractLsb' 8 8, dest.extractLsb' 16 8, dest.extractLsb' 24 8]
  let s := [src.extractLsb' 0 8, src.extractLsb' 8 8, src.extractLsb' 16 8, src.extractLsb' 24 8]
  [p.pre0, p.pre1, 10, checksum p [p.pre0, p.pre1, 10]] ++ d ++ s ++ [cmd, checksum p (d ++ s ++ [cmd])]

/-- The data packet of R161 and R164, byte by byte. -/
def dataPacket (p : Params) (cmd : Byte) (dest src : Addr) (rd : Reading) : List Byte :=
  let d := [dest.extractLsb' 0 8, dest.extractLsb' 8 8, dest.extractLsb' 16 8, dest.extractLsb' 24 8]
  let s := [src.extractLsb' 0 8, src.extractLsb' 8 8, src.extractLsb' 16 8, src.extractLsb' 24 8]
  let r := [rd.type, rd.value0, rd.value1, rd.value2, rd.value3, rd.voltage, rd.battery, rd.flags, rd.watchdogId]
  [p.pre0, p.pre1, 19, checksum p [p.pre0, p.pre1, 19]] ++ d ++ s ++ [cmd] ++ r ++
    [checksum p (d ++ s ++ [cmd] ++ r)]

/-- A preamble at offset `i`, four header bytes inside the buffer, and a matching header checksum (R253, R254). -/
def ValidHeaderAt (p : Params) (v : List Byte) (i : Nat) : Prop :=
  i + 4 ≤ v.length ∧ byteAt v i = p.pre0 ∧ byteAt v (i + 1) = p.pre1 ∧
    checksum p (slice v i 3) = byteAt v (i + 3)

/-- The content of `n` bytes behind the header at offset `i` ends with the checksum of the bytes before (R257). -/
def ValidContentAt (p : Params) (v : List Byte) (i n : Nat) : Prop :=
  checksum p (slice v (i + 4) (n - 1)) = byteAt v (i + 4 + n - 1)

/-- The four bytes from index `k`, the first the least significant (R10). -/
def word32At (v : List Byte) (k : Nat) : BitVec 32 :=
  byteAt v (k + 3) ++ byteAt v (k + 2) ++ byteAt v (k + 1) ++ byteAt v k

/-- The packet that the bytes of buffer `v` at offset `i` spell (R258). -/
def packetAt (v : List Byte) (i : Nat) : Packet where
  offset := i
  contentLength := byteAt v (i + 2)
  headerChecksum := byteAt v (i + 3)
  dest := word32At v (i + 4)
  src := word32At v (i + 8)
  command := byteAt v (i + 12)
  reading :=
    if byteAt v (i + 2) = 19 then
      some ⟨byteAt v (i + 13), byteAt v (i + 14), byteAt v (i + 15), byteAt v (i + 16), byteAt v (i + 17),
        byteAt v (i + 18), byteAt v (i + 19), byteAt v (i + 20), byteAt v (i + 21)⟩
    else none
  contentChecksum := byteAt v (i + 3 + (byteAt v (i + 2)).toNat)

/-- What the decoder says of a buffer whose first valid header stands at offset `i` (R255..R258). -/
def resultAt (p : Params) (v : List Byte) (i : Nat) (r : DecodeResult) : Prop :=
  let n := (byteAt v (i + 2)).toNat
  (n ≠ 10 ∧ n ≠ 19 → r = .fail .badContent) ∧
  ((n = 10 ∨ n = 19) → v.length < i + 4 + n → r = .fail .none) ∧
  ((n = 10 ∨ n = 19) → i + 4 + n ≤ v.length → ¬ ValidContentAt p v i n → r = .fail .badContent) ∧
  ((n = 10 ∨ n = 19) → i + 4 + n ≤ v.length → ValidContentAt p v i n → r = .ok (packetAt v i))

/-- The commands that change no state (R108). -/
def isReadOnly : Instr → Bool
  | .bufRead _ | .bufLen _ | .cksum _ | .decode _ | .regFind | .regEarliest | .regOffline | .regSize | .regList
  | .cfgRead _ => true
  | .bufAppend _ | .bufReset _ | .encRreq _ | .encRrsp _ | .encDreq _ | .encDrsp _ | .regAdd | .regRemove
  | .regPollreq | .regPollrsp | .engStart | .engStop | .cfgWrite _ | .engIterHarderr | .engIterIntr
  | .engIterTimeout | .engIterCtrl | .engIterRxrdy | .engIterTxrdy | .engIterUdprdy => false

/-- The seven `ENG_ITER` commands, each with its wait outcome (R145). -/
def outcomeOf : Instr → Option WaitOutcome
  | .engIterHarderr => some .hardErr
  | .engIterIntr => some .intr
  | .engIterTimeout => some .timeout
  | .engIterCtrl => some .ctrl
  | .engIterRxrdy => some .rxRdy
  | .engIterTxrdy => some .txRdy
  | .engIterUdprdy => some .udpRdy
  | .cksum _ | .bufAppend _ | .bufReset _ | .bufLen _ | .bufRead _ | .encRreq _ | .encRrsp _ | .encDreq _
  | .encDrsp _ | .decode _ | .regFind | .regAdd | .regRemove | .regEarliest | .regOffline | .regPollreq
  | .regPollrsp | .regSize | .regList | .engStart | .engStop | .cfgRead _ | .cfgWrite _ => none

/-- The host commands that mutate shared state (R112); `CFG_WRITE` of a register it may name. -/
def isMutating : Instr → Bool
  | .bufAppend _ | .bufReset _ | .encRreq _ | .encRrsp _ | .encDreq _ | .encDrsp _ | .regAdd | .regRemove
  | .regPollreq | .regPollrsp | .engStart => true
  | .cfgWrite n => decide (n ∈ [.cr0, .cr1, .cr2, .cr3, .cr4])
  | .bufRead _ | .bufLen _ | .cksum _ | .decode _ | .regFind | .regEarliest | .regOffline | .regSize | .regList
  | .cfgRead _ | .engStop | .engIterHarderr | .engIterIntr | .engIterTimeout | .engIterCtrl | .engIterRxrdy
  | .engIterTxrdy | .engIterUdprdy => false

/-- The admissibility table of R364, row by row. -/
def Admissible (s : State) (io : IoRes) : WaitOutcome → Prop
  | .hardErr | .intr => True
  | .timeout => s.ctrlPending = false
  | .ctrl => s.ctrlPending = true
  | .rxRdy => s.ctrlPending = false ∧ s.intent.wantReadRadio = true ∧
      ((∃ v, io = .bytes v ∧ 1 ≤ v.length ∧ v.length + s.bufs.rrb.length ≤ s.params.bufCap) ∨
        io = .eof ∨ io = .wouldBlock ∨ io = .error)
  | .txRdy => s.ctrlPending = false ∧ s.intent.wantWriteRadio = true ∧ (io = .ok ∨ io = .wouldBlock ∨ io = .error)
  | .udpRdy => s.ctrlPending = false ∧ s.intent.wantWriteUdp = true ∧ (io = .ok ∨ io = .wouldBlock ∨ io = .error)

/-- The state of a running engine ready for a radio read of the bytes `v` (R364, R374, R399). -/
structure ReadyToRead (s : State) (v : List Byte) : Prop where
  running : s.running = true
  quiet : s.ctrlPending = false
  armed : s.intent = .readRadio
  rrbEmpty : s.bufs.rrb = []
  iores : s.ports.iores = .bytes v
  nonempty : 1 ≤ v.length
  fits : v.length ≤ s.params.bufCap

/-- The wait timeout of R368. -/
def timeoutOf (s : State) : BitVec 32 := BitVec.ofNat 32 (32 / max 1 s.registry.length)

/-- The end of an iteration that drops its packet: the log grows by what the rule says, `INTENT` is {readRadio}, the radio
read buffer is empty, the wait timeout is recorded, everything else is as before (R390, R398). -/
def dropped (s : State) (entries : List LogEntry) : State :=
  { s with
    waitTimeout := timeoutOf s
    log := s.log ++ entries
    intent := .readRadio
    bufs := { s.bufs with rrb := [] }
    result := { status := .ok } }

/-- What both stops leave (R365, R366): the four buffers empty, `INTENT`, `CTRL_PENDING` and `RUNNING` 0, the cause. -/
def stoppedBy (s : State) (c : ExitCause) (entries : List LogEntry) : State :=
  { s with
    waitTimeout := timeoutOf s
    bufs := ⟨[], [], [], []⟩
    intent := ⟨false, false, false, false, false⟩
    ctrlPending := false
    running := false
    exitCause := c
    log := s.log ++ entries
    result := { status := .exited } }

/-- The record transitions of R312 that keep the record. -/
def Transition (a b : RecState) : Prop :=
  a = b ∨ (a = .registerPending ∧ b = .registerResponded) ∨ b = .pollRequested ∨
    (a = .pollRequested ∧ b = .pollResponded)

end Sys2Proof.Claims

open Sys2Proof.Claims

/-! ### Encoding -/

/-- Encoding and decoding agree, for every instruction with every operand (R140..R145). -/
def Obligations.DecodeOfEncodeIsTheInstruction : Prop := ∀ i : Instr, decodeWord (encode i) = .ok i

/-- A word that decodes is the word of its instruction: no bit of a word is dropped (R140..R145). -/
def Obligations.EncodeOfDecodeIsTheWord : Prop := ∀ (w : CmdWord) (i : Instr), decodeWord w = .ok i → encode i = w

/-- Words the spec spells out (R150, 95_test_vectors.md L2.1). -/
def Obligations.WordsOfTheSpecDecode : Prop :=
  decodeWord 0x1240 = .ok (.encDreq .rwb) ∧ decodeWord 0x13C0 = .ok (.encDrsp .uwb) ∧
    decodeWord 0x1400 = .ok (.decode .rrb) ∧ decodeWord 0x3208 = .ok (.cfgRead .cr8) ∧
    decodeWord 0x3304 = .ok (.cfgWrite .cr4) ∧ decodeWord 0x3402 = .ok .engIterTimeout ∧
    decodeWord 0x0601 = .error .unknownOpcode ∧ decodeWord 0x2040 = .error .mustBeZero ∧
    decodeWord 0x3407 = .error .reservedOutcome

/-- The decodable words are exactly those of the opcode table, and no word falls under two rows (R142). -/
def Obligations.DecodableWordsAreTheOpcodeTable : Prop :=
  (∀ w : CmdWord, (∃ i, decodeWord w = .ok i) ↔ ∃ r ∈ opcodeRows, w &&& r.mask = r.pattern) ∧
    opcodeRows.Pairwise fun r q => ∀ w : CmdWord, ¬ (w &&& r.mask = r.pattern ∧ w &&& q.mask = q.pattern)

/-- The legal words are those that decode to a well-formed instruction (R141, R148). -/
def Obligations.LegalWordsDecodeToWellFormed : Prop :=
  ∀ w : CmdWord, LegalWord w ↔ ∃ i, decodeWord w = .ok i ∧ i.wellFormed = true

/-- An illegal or reserved word is refused with `ILLEGAL_COMMAND`: nothing else changes, nothing is logged (R148). -/
def Obligations.IllegalWordIsRefused : Prop :=
  ∀ (s : State) (c : Command) (rest : List Command), s.pending = c :: rest → ¬ LegalWord c.word →
    step s = .next { s with pending := rest, result := { status := .illegalCommand } }

/-! ### The step -/

/-- When the oldest pending command decodes, the step is its execution, after which the command is gone; an execution that
stops, stops the step (R140, R107). -/
def Obligations.StepRunsTheDecodedCommand : Prop :=
  ∀ (s : State) (c : Command) (rest : List Command) (i : Instr),
    s.pending = c :: rest → decodeWord c.word = .ok i →
      step s = andThen (exec i s) fun t => .next { t with pending := rest }

/-- Commands take effect one at a time in the order they were issued, and no command changes the parameters (R111, R7). -/
def Obligations.CommandsAreConsumedInOrder : Prop :=
  ∀ s t : State, step s = .next t → t.pending = s.pending.tail ∧ t.params = s.params

/-! ### Checksum and buffers -/

/-- `CKSUM` (R203). -/
def Obligations.CksumCommand : Prop :=
  ∀ (s : State) (b : BufIdx),
    decodeWord (packWord 0x01 b.toBits 0) = .ok (.cksum b) ∧
    (s.ports.off.toNat + s.ports.len.toNat ≤ (s.buf b).length →
      exec (.cksum b) s = .next { s with result :=
        { status := .ok
          res := some ((checksum s.params (slice (s.buf b) s.ports.off.toNat s.ports.len.toNat)).setWidth 64) } }) ∧
    ((s.buf b).length < s.ports.off.toNat + s.ports.len.toNat →
      exec (.cksum b) s = .next { s with result := { status := .rangeError } })

/-- The reference checksum is the sum of the bytes mod 256, which meets the single-bit law (R201, R202). -/
def Obligations.ReferenceChecksumIsTheByteSum : Prop :=
  ∀ p : Params, p.cksum = .sumMod256 →
    (∀ v, (checksum p v).toNat = (v.map BitVec.toNat).sum % 256) ∧ SingleBitLaw (checksum p)

/-- `BUF_APPEND` (R210, R211): refused while running, all or nothing at the capacity. -/
def Obligations.BufAppendCommand : Prop :=
  ∀ (s : State) (b : BufIdx),
    decodeWord (packWord 0x02 b.toBits 0) = .ok (.bufAppend b) ∧
    (s.running = true → exec (.bufAppend b) s = .next { s with result := { status := .busy } }) ∧
    (s.running = false → s.params.bufCap < (s.buf b).length + s.ports.data.length →
      exec (.bufAppend b) s = .next { s with result := { status := .allocFail } }) ∧
    (s.running = false → (s.buf b).length + s.ports.data.length ≤ s.params.bufCap →
      ∃ t, exec (.bufAppend b) s = .next t ∧ t.buf b = s.buf b ++ s.ports.data ∧
        t = { s with bufs := t.bufs, result := { status := .ok } } ∧ ∀ c, c ≠ b → t.buf c = s.buf c)

/-- `BUF_RESET` (R212). -/
def Obligations.BufResetCommand : Prop :=
  ∀ (s : State) (b : BufIdx),
    decodeWord (packWord 0x03 b.toBits 0) = .ok (.bufReset b) ∧
    (s.running = true → exec (.bufReset b) s = .next { s with result := { status := .busy } }) ∧
    (s.running = false →
      ∃ t, exec (.bufReset b) s = .next t ∧ t.buf b = [] ∧
        t = { s with bufs := t.bufs, result := { status := .ok } } ∧ ∀ c, c ≠ b → t.buf c = s.buf c)

/-- `BUF_LEN` and `BUF_READ` (R213, R214). -/
def Obligations.BufLenAndBufReadCommands : Prop :=
  ∀ (s : State) (b : BufIdx),
    decodeWord (packWord 0x04 b.toBits 0) = .ok (.bufLen b) ∧
    decodeWord (packWord 0x05 b.toBits 0) = .ok (.bufRead b) ∧
    exec (.bufLen b) s =
      .next { s with result := { status := .ok, res := some (BitVec.ofNat 64 (s.buf b).length) } } ∧
    exec (.bufRead b) s = .next { s with result := { status := .ok, out := some (s.buf b) } }

/-- The frame of the commands that write one buffer: every other piece of state is unchanged, every byte of every other
buffer reads as before, and an append leaves the bytes already in its buffer (R210, R212, R241..R245). -/
def Obligations.BufferWritersFrame : Prop :=
  ∀ (s t : State) (b : BufIdx) (i : Instr),
    i ∈ [Instr.bufAppend b, .bufReset b, .encRreq b, .encRrsp b, .encDreq b, .encDrsp b] → exec i s = .next t →
      t = { s with bufs := t.bufs, result := t.result } ∧
      (∀ (c : BufIdx) (k : Nat), c ≠ b → t.readByte c k = s.readByte c k) ∧
      (i = .bufAppend b → ∀ k, k < (s.buf b).length → t.readByte b k = s.readByte b k)

/-- The read-only commands complete in every state, change nothing but the result ports, and give the same result when
repeated (R108). -/
def Obligations.ReadOnlyCommandsChangeNoState : Prop :=
  ∀ (i : Instr) (s : State), isReadOnly i = true →
    ∃ t, exec i s = .next t ∧ t = { s with result := t.result } ∧ exec i t = .next t

/-- No step makes a buffer longer than `BUF_CAP` (R44). -/
def Obligations.BuffersNeverExceedCapacity : Prop :=
  ∀ s t : State, BuffersFit s → step s = .next t → BuffersFit t

/-! ### Codec -/

/-- The wire layout of the packets (R160, R161, R163, R164, R166, R240). -/
def Obligations.SerializedPacketLayout : Prop :=
  ∀ (p : Params) (cmd : Byte) (dest src : Addr) (rd : Reading),
    serialize p cmd dest src none = controlPacket p cmd dest src ∧
    serialize p cmd dest src (some rd) = dataPacket p cmd dest src rd ∧
    (controlPacket p cmd dest src).length = 14 ∧ (dataPacket p cmd dest src rd).length = 23

/-- The encoders overwrite their buffer with one packet, whatever it held (R241..R245); refused while running. -/
def Obligations.EncodersOverwriteTheirBuffer : Prop :=
  ∀ (s : State) (b : BufIdx), 23 ≤ s.params.bufCap →
    ∀ (opc : BitVec 8) (i : Instr) (packet : List Byte),
      (opc, i, packet) ∈
        [(0x10, Instr.encRreq b, controlPacket s.params s.params.cmdRreq s.ports.a s.ports.b),
          (0x11, .encRrsp b, controlPacket s.params s.params.cmdRrsp s.ports.a s.ports.b),
          (0x12, .encDreq b, controlPacket s.params s.params.cmdDreq s.ports.a s.ports.b),
          (0x13, .encDrsp b, dataPacket s.params s.params.cmdDrsp s.ports.a s.ports.b s.ports.rd)] →
      decodeWord (packWord opc b.toBits 0) = .ok i ∧
      (s.running = true → exec i s = .next { s with result := { status := .busy } }) ∧
      (s.running = false →
        ∃ t, exec i s = .next t ∧ t.buf b = packet ∧ t = { s with bufs := t.bufs, result := { status := .ok } } ∧
          ∀ c, c ≠ b → t.buf c = s.buf c)

/-- The decoder decides at the first offset with a valid header, and answers `NONE` where there is none: it scans byte by
byte, resyncs by one byte on a header mismatch and never after a valid header (R252..R258). -/
def Obligations.DecoderDecidesAtTheFirstValidHeader : Prop :=
  ∀ (p : Params) (v : List Byte),
    ((∀ i, ¬ ValidHeaderAt p v i) → decodeBytes p v = .fail .none) ∧
    (∀ i, ValidHeaderAt p v i → (∀ j, j < i → ¬ ValidHeaderAt p v j) → resultAt p v i (decodeBytes p v))

/-- Round trip: a buffer that begins with an encoded packet decodes to it (R260). -/
def Obligations.PacketRoundTrip : Prop :=
  ∀ (p : Params) (cmd : Byte) (dest src : Addr) (rd : Option Reading) (rest : List Byte),
    ∃ pkt, decodeBytes p (serialize p cmd dest src rd ++ rest) = .ok pkt ∧
      pkt.offset = 0 ∧ pkt.dest = dest ∧ pkt.src = src ∧ pkt.command = cmd ∧ pkt.reading = rd ∧
      pkt.contentLength = (if rd.isSome then 19 else 10)

/-- Fail closed: a packet with one bit inverted is never accepted at its own offset. In the header the decoder finds no
preamble or a header mismatch and goes on at offset 1; in the content it answers `BAD_CONTENT`; what it does accept has
matching checksums at its own offset (R261). -/
def Obligations.SingleBitErrorsFailClosed : Prop :=
  ∀ (p : Params) (cmd : Byte) (dest src : Addr) (rd : Option Reading) (k j : Nat),
    SingleBitLaw (checksum p) → k < (serialize p cmd dest src rd).length → j < 8 →
    ∀ v, v = flipBit (serialize p cmd dest src rd) k j →
      (k ≤ 1 → ¬ (byteAt v 0 = p.pre0 ∧ byteAt v 1 = p.pre1)) ∧
      (k = 2 ∨ k = 3 → checksum p (slice v 0 3) ≠ byteAt v 3) ∧
      (k ≤ 3 → decodeBytes p v = scanFrom p 1 v.tail) ∧
      (4 ≤ k → ValidHeaderAt p v 0 ∧ decodeBytes p v = .fail .badContent) ∧
      (∀ pkt, decodeBytes p v = .ok pkt →
        ValidHeaderAt p v pkt.offset ∧ ValidContentAt p v pkt.offset pkt.contentLength.toNat)

/-- `DECODE`: the status, and `PKT` and `RES` only with `OK` (R250, R251, R252). -/
def Obligations.DecodeCommand : Prop :=
  ∀ (s : State) (b : BufIdx),
    decodeWord (packWord 0x14 b.toBits 0) = .ok (.decode b) ∧
    (∀ pkt, decodeBytes s.params (s.buf b) = .ok pkt →
      exec (.decode b) s = .next { s with result :=
        { status := .ok, res := some (BitVec.ofNat 64 pkt.offset), pkt := some pkt } }) ∧
    (decodeBytes s.params (s.buf b) = .fail .none →
      exec (.decode b) s = .next { s with result := { status := .none } }) ∧
    (decodeBytes s.params (s.buf b) = .fail .badContent →
      exec (.decode b) s = .next { s with result := { status := .badContent } })

/-! ### Registry -/

/-- `REG_FIND` (R303). -/
def Obligations.RegFindCommand : Prop :=
  decodeWord 0x2000 = .ok .regFind ∧ ∀ s : State, RegistryInv s →
    (∀ r ∈ s.registry, r.address = s.ports.a →
      exec .regFind s = .next { s with result := { status := .ok, record := some r } }) ∧
    ((∀ r ∈ s.registry, r.address ≠ s.ports.a) →
      exec .regFind s = .next { s with result := { status := .none } })

/-- `REG_ADD`, its checks in their order, and the record it creates (R301, R302, R316). -/
def Obligations.RegAddCommand : Prop :=
  decodeWord 0x2100 = .ok .regAdd ∧ ∀ s : State,
    let a := s.ports.a
    let outside := s.params.srcRangeCheck = true ∧ (a < 0x01000000 ∨ 0xFFFFFFFE < a)
    let fresh : SensorRecord := ⟨a, .registerPending, 0, 0, 0, none, s.nextSeq⟩
    (s.running = true → exec .regAdd s = .next { s with result := { status := .busy } }) ∧
    (s.running = false → outside → exec .regAdd s = .next { s with result := { status := .rangeError } }) ∧
    (s.running = false → ¬ outside → 32 ≤ s.registry.length →
      exec .regAdd s = .next { s with result := { status := .capacityExceeded } }) ∧
    (s.running = false → ¬ outside → s.registry.length < 32 → (s.registry.map (·.address)).Nodup →
      ∀ r ∈ s.registry, r.address = a →
        exec .regAdd s = .next { s with
          log := s.log ++ [.duplicateReg a]
          result := { status := .ok, res := some 1, record := some r } }) ∧
    (s.running = false → ¬ outside → s.registry.length < 32 → (∀ r ∈ s.registry, r.address ≠ a) →
      s.nextSeq ≠ 0xFFFFFFFFFFFFFFFF →
        exec .regAdd s = .next { s with
          registry := fresh :: s.registry
          nextSeq := s.nextSeq + 1
          result := { status := .ok, res := some 0, record := some fresh } })

/-- The model's choice the spec allows (R302; log entry 12): a creation at `NEXT_SEQ = 2^64 - 1` is refused, whether the host
or a registration asks for it. -/
def Obligations.ExhaustedSequenceIsRefused : Prop :=
  ∀ s : State, s.nextSeq = 0xFFFFFFFFFFFFFFFF → s.params.srcRangeCheck = false → s.registry.length < 32 →
    (s.running = false → (∀ r ∈ s.registry, r.address ≠ s.ports.a) → exec .regAdd s = .refused .seqExhausted) ∧
    (∀ (v : List Byte) (pkt : Packet), ReadyToRead s v → decodeBytes s.params v = .ok pkt →
      pkt.command = s.params.cmdRreq → pkt.dest = 0x00FFFFFF → (∀ r ∈ s.registry, r.address ≠ pkt.src) →
        exec .engIterRxrdy s = .refused .seqExhausted)

/-- `REG_REMOVE`: the record is gone, one fewer remains, every other record and `NEXT_SEQ` stay (R304). -/
def Obligations.RegRemoveCommand : Prop :=
  decodeWord 0x2200 = .ok .regRemove ∧ ∀ s : State, RegistryInv s →
    (s.running = true → exec .regRemove s = .next { s with result := { status := .busy } }) ∧
    (s.running = false → (∀ r ∈ s.registry, r.address ≠ s.ports.a) →
      exec .regRemove s = .next { s with result := { status := .notFound } }) ∧
    (s.running = false → ∀ r ∈ s.registry, r.address = s.ports.a →
      ∃ t, exec .regRemove s = .next t ∧ t = { s with registry := t.registry, result := { status := .ok } } ∧
        (∀ q, q ∈ t.registry ↔ q ∈ s.registry ∧ q ≠ r) ∧ t.registry.length + 1 = s.registry.length ∧
        ∀ q ∈ t.registry, q.address ≠ s.ports.a)

/-- `REG_EARLIEST`: the least `lastRequestTime`, ties to the largest `seq`, `NONE` for an empty registry (R305). -/
def Obligations.RegEarliestCommand : Prop :=
  decodeWord 0x2300 = .ok .regEarliest ∧ ∀ s : State,
    (s.registry = [] → exec .regEarliest s = .next { s with result := { status := .none } }) ∧
    (s.registry ≠ [] →
      ∃ r ∈ s.registry,
        exec .regEarliest s = .next { s with result := { status := .ok, record := some r } } ∧
        ∀ q ∈ s.registry, r.lastRequestTime < q.lastRequestTime ∨
          (r.lastRequestTime = q.lastRequestTime ∧ q.seq ≤ r.seq))

/-- `REG_OFFLINE`: the record of largest `seq` among those with deficit at least `T` (R300, R306, R307). -/
def Obligations.RegOfflineCommand : Prop :=
  decodeWord 0x2400 = .ok .regOffline ∧ ∀ s : State, RegistryInv s →
    ((∀ r ∈ s.registry, (r.requestCount - r.responseCount).toNat < s.ports.t.toNat) →
      exec .regOffline s = .next { s with result := { status := .none } }) ∧
    (∀ r ∈ s.registry, s.ports.t.toNat ≤ (r.requestCount - r.responseCount).toNat →
      (∀ q ∈ s.registry, s.ports.t.toNat ≤ (q.requestCount - q.responseCount).toNat → q.seq ≤ r.seq) →
        exec .regOffline s = .next { s with result := { status := .ok, record := some r } })

/-- `REG_POLLREQ`, from every state (R308). -/
def Obligations.RegPollreqCommand : Prop :=
  decodeWord 0x2500 = .ok .regPollreq ∧ ∀ s : State, RegistryInv s →
    (s.running = true → exec .regPollreq s = .next { s with result := { status := .busy } }) ∧
    (s.running = false → (∀ r ∈ s.registry, r.address ≠ s.ports.a) →
      exec .regPollreq s = .next { s with result := { status := .notFound } }) ∧
    (s.running = false → ∀ r ∈ s.registry, r.address = s.ports.a →
      let r' := { r with
        state := RecState.pollRequested
        requestCount := r.requestCount + 1
        lastRequestTime := s.ports.now }
      exec .regPollreq s = .next { s with
        registry := s.registry.map fun q => if q = r then r' else q
        result := { status := .ok, record := some r' } })

/-- `REG_POLLRSP`, only from `PollRequested` (R309). -/
def Obligations.RegPollrspCommand : Prop :=
  decodeWord 0x2600 = .ok .regPollrsp ∧ ∀ s : State, RegistryInv s →
    (s.running = true → exec .regPollrsp s = .next { s with result := { status := .busy } }) ∧
    (s.running = false → (∀ r ∈ s.registry, r.address ≠ s.ports.a) →
      exec .regPollrsp s = .next { s with result := { status := .notFound } }) ∧
    (s.running = false → ∀ r ∈ s.registry, r.address = s.ports.a → r.state ≠ .pollRequested →
      exec .regPollrsp s = .next { s with result := { status := .stateMismatch } }) ∧
    (s.running = false → ∀ r ∈ s.registry, r.address = s.ports.a → r.state = .pollRequested →
      let r' := { r with
        state := RecState.pollResponded
        responseCount := r.responseCount + 1
        lastReading := some s.ports.rd }
      exec .regPollrsp s = .next { s with
        registry := s.registry.map fun q => if q = r then r' else q
        result := { status := .ok, record := some r' } })

/-- `REG_SIZE` and `REG_LIST` (R310, R311): `LIST` is in descending order of `seq`. -/
def Obligations.RegSizeAndRegListCommands : Prop :=
  decodeWord 0x2700 = .ok .regSize ∧ decodeWord 0x2800 = .ok .regList ∧ ∀ s : State, RegistryInv s →
    exec .regSize s =
      .next { s with result := { status := .ok, res := some (BitVec.ofNat 64 s.registry.length) } } ∧
    ∃ l, exec .regList s = .next { s with result := { status := .ok, list := some l } } ∧
      l.Perm s.registry ∧ l.Pairwise fun r q => q.seq < r.seq

/-- Every step keeps the registry's invariants (R48). -/
def Obligations.EveryStepKeepsRegistryInv : Prop :=
  ∀ s t : State, RegistryInv s → step s = .next t → RegistryInv t

/-- The per-record state machine: a record keeps its address and its `seq` and moves only along the table; a record that was
not there before starts as R302 says, moved on at most by the registration that created it (R312). -/
def Obligations.RecordsFollowTheStateMachine : Prop :=
  ∀ s t : State, RegistryInv s → IterationInv s → step s = .next t → ∀ q ∈ t.registry,
    (∃ r ∈ s.registry, r.seq = q.seq ∧ r.address = q.address ∧ Transition r.state q.state) ∨
    ((∀ r ∈ s.registry, r.address ≠ q.address) ∧ q.seq = s.nextSeq ∧
      (q.state = .registerPending ∨ q.state = .registerResponded) ∧
      q.requestCount = 0 ∧ q.responseCount = 0 ∧ q.lastRequestTime = 0 ∧ q.lastReading = none)

/-- The counters and the reading of a record move only with its state machine: a request enters `PollRequested` and counts
one, a response leaves `PollRequested` for `PollResponded` and counts one (R308, R309, R313). -/
def Obligations.CountersFollowTheStateMachine : Prop :=
  ∀ s t : State, RegistryInv s → step s = .next t →
    ∀ r ∈ s.registry, ∀ q ∈ t.registry, r.seq = q.seq →
      (q.requestCount = r.requestCount ∧ q.lastRequestTime = r.lastRequestTime ∨
        q.requestCount = r.requestCount + 1 ∧ q.state = .pollRequested) ∧
      (q.responseCount = r.responseCount ∧ q.lastReading = r.lastReading ∨
        q.responseCount = r.responseCount + 1 ∧ r.state = .pollRequested ∧ q.state = .pollResponded)

/-- `NEXT_SEQ` advances by one with each creation and by nothing else (R49, R302). -/
def Obligations.NextSeqCountsCreations : Prop :=
  ∀ s t : State, RegistryInv s → step s = .next t →
    (t.nextSeq = s.nextSeq ∧ ∀ q ∈ t.registry, q.seq < s.nextSeq) ∨
    (t.nextSeq = s.nextSeq + 1 ∧ ∃ q ∈ t.registry, q.seq = s.nextSeq)

/-! ### Engine control -/

/-- `ENG_START` (R360). -/
def Obligations.EngStartCommand : Prop :=
  decodeWord 0x3000 = .ok .engStart ∧ ∀ s : State,
    let written := s.localAddr.written = true ∧ s.userId.written = true ∧ s.dataRate.written = true ∧
      s.serverIp.written = true ∧ s.serverPort.written = true
    (s.running = true → exec .engStart s = .next { s with result := { status := .busy } }) ∧
    (s.running = false → ¬ written → exec .engStart s = .next { s with result := { status := .unconfigured } }) ∧
    (s.running = false → written →
      exec .engStart s = .next { s with
        sLocal := s.localAddr.value
        sServerIp := s.serverIp.value
        sServerPort := s.serverPort.value
        devcap := s.devcap ++
          [.setNetworkId (s.params.vendorByte ++ s.userId.value), .setFrequency (s.userId.value.extractLsb' 0 4),
            .setDataRate s.dataRate.value]
        bufs := ⟨[], [], [], []⟩
        intent := ⟨true, false, false, false, false⟩
        ctrlPending := false
        exitCause := .none
        running := true
        result := { status := .ok } })

/-- `ENG_STOP` (R361). -/
def Obligations.EngStopCommand : Prop :=
  decodeWord 0x3100 = .ok .engStop ∧ ∀ s : State,
    (s.running = false → exec .engStop s = .next { s with result := { status := .notRunning } }) ∧
    (s.running = true → exec .engStop s = .next { s with ctrlPending := true, result := { status := .ok } })

/-- `CFG_READ` (R362): a configuration register gives its value once written and `UNCONFIGURED` before, CR1 with its
hard-wired vendor byte (R52..R56, R63); a status register gives its fields, each bit of CR8 and CR9 the flag the rule names, the
bits above 0 (R57..R60); a reserved number is refused (R61). -/
def Obligations.CfgReadCommand : Prop :=
  (∀ n : CrNum, decodeWord (packWord 0x32 0 (n.toBits.setWidth 6)) = .ok (.cfgRead n)) ∧ ∀ s : State,
    let answer (v : BitVec 64) : Out := .next { s with result := { status := .ok, res := some v } }
    let unconfigured : Out := .next { s with result := { status := .unconfigured } }
    exec (.cfgRead .cr0) s = (if s.localAddr.written then answer (s.localAddr.value.setWidth 64) else unconfigured) ∧
    exec (.cfgRead .cr1) s =
      (if s.userId.written then answer ((s.params.vendorByte ++ s.userId.value).setWidth 64) else unconfigured) ∧
    exec (.cfgRead .cr2) s = (if s.dataRate.written then answer (s.dataRate.value.setWidth 64) else unconfigured) ∧
    exec (.cfgRead .cr3) s = (if s.serverIp.written then answer (s.serverIp.value.setWidth 64) else unconfigured) ∧
    exec (.cfgRead .cr4) s = (if s.serverPort.written then answer (s.serverPort.value.setWidth 64) else unconfigured) ∧
    (∃ cr8 : BitVec 64, exec (.cfgRead .cr8) s = answer cr8 ∧
      cr8.getLsbD 0 = s.running ∧ cr8.getLsbD 3 = s.ctrlPending ∧ cr8.toNat < 16 ∧
      cr8.toNat / 2 % 4 =
        (match s.exitCause with | .none => 0 | .graceful => 1 | .fatalIo => 2 | .fatalAlloc => 3)) ∧
    (∃ cr9 : BitVec 64, exec (.cfgRead .cr9) s = answer cr9 ∧
      cr9.getLsbD 0 = s.intent.wantReadRadio ∧ cr9.getLsbD 1 = s.intent.wantWriteRadio ∧
      cr9.getLsbD 2 = s.intent.wantReadUdp ∧ cr9.getLsbD 3 = s.intent.wantWriteUdp ∧
      cr9.getLsbD 4 = s.intent.processPending ∧ cr9.toNat < 32) ∧
    (s.registry.length ≤ 32 → exec (.cfgRead .cr10) s = answer (BitVec.ofNat 64 s.registry.length)) ∧
    exec (.cfgRead .cr11) s = answer (s.waitTimeout.setWidth 64) ∧
    ∀ n ∈ [CrNum.cr5, .cr6, .cr7, .cr12, .cr13, .cr14, .cr15],
      exec (.cfgRead n) s = .next { s with result := { status := .illegalCommand } }

/-- `CFG_WRITE` (R363, R436): a number that is not CR0..CR4 is refused before `BUSY`; the checks and the effects of the
five registers, bits above a register's field ignored. -/
def Obligations.CfgWriteCommand : Prop :=
  (∀ n : CrNum, decodeWord (packWord 0x33 0 (n.toBits.setWidth 6)) = .ok (.cfgWrite n)) ∧ ∀ s : State,
    let v := s.ports.val
    (∀ n, n ∉ [CrNum.cr0, .cr1, .cr2, .cr3, .cr4] →
      exec (.cfgWrite n) s = .next { s with result := { status := .illegalCommand } }) ∧
    (s.running = true → ∀ n ∈ [CrNum.cr0, .cr1, .cr2, .cr3, .cr4],
      exec (.cfgWrite n) s = .next { s with result := { status := .busy } }) ∧
    (s.running = false →
      exec (.cfgWrite .cr0) s = .next { s with localAddr := ⟨v, true⟩, result := { status := .ok } } ∧
      exec (.cfgWrite .cr1) s =
        (if v.toNat % 256 < 0x01 ∨ 0xF0 < v.toNat % 256 then .next { s with result := { status := .rangeError } }
          else .next { s with userId := ⟨BitVec.ofNat 8 v.toNat, true⟩, result := { status := .ok } }) ∧
      exec (.cfgWrite .cr2) s = .next { s with dataRate := ⟨v, true⟩, result := { status := .ok } } ∧
      exec (.cfgWrite .cr3) s = .next { s with serverIp := ⟨v, true⟩, result := { status := .ok } } ∧
      exec (.cfgWrite .cr4) s =
        .next { s with serverPort := ⟨BitVec.ofNat 16 v.toNat, true⟩, result := { status := .ok } })

/-- Stop-the-world: while the engine runs, every mutating host command is refused with `BUSY` and changes nothing, and the
read-only commands, `ENG_STOP` and an interrupted wait are accepted (R112, R445). -/
def Obligations.RunningEngineRefusesMutation : Prop :=
  ∀ (s : State) (i : Instr), s.running = true →
    (isMutating i = true → exec i s = .next { s with result := { status := .busy } }) ∧
    (isMutating i = false → ∀ t, exec i s = .next t → t.result.status ≠ .busy)

/-- A stopped engine refuses `ENG_STOP` and `ENG_ITER` with `NOT_RUNNING`, and no other command (R445). -/
def Obligations.StoppedEngineRefusesEngineCommands : Prop :=
  ∀ (s : State) (i : Instr), s.running = false →
    (i = .engStop ∨ (outcomeOf i).isSome = true →
      exec i s = .next { s with result := { status := .notRunning } }) ∧
    (i ≠ .engStop → outcomeOf i = none → ∀ t, exec i s = .next t → t.result.status ≠ .notRunning)

/-- A command that ends with a refusal or an operation failure changes nothing but the result ports (R430, R431). That no
result port but `STATUS` then holds a value, the ports the command names included, is the model's deduction: R42 says it of
the ports a command does not name (log entry 7, DEDUCED). -/
def Obligations.RefusedCommandsChangeNothing : Prop :=
  ∀ (i : Instr) (s t : State), exec i s = .next t →
    t.result.status ∈ [Status.notFound, .capacityExceeded, .stateMismatch, .illegalCommand, .busy, .notRunning,
      .allocFail, .rangeError, .unconfigured] →
    t = { s with result := { status := t.result.status } }

/-! ### The relay loop -/

/-- An inadmissible wait outcome is refused with `ILLEGAL_COMMAND`; an admissible one never is (R364). -/
def Obligations.OnlyAdmissibleOutcomesRun : Prop :=
  ∀ (s : State) (i : Instr) (o : WaitOutcome), outcomeOf i = some o → s.running = true →
    (¬ Admissible s s.ports.iores o → exec i s = .next { s with result := { status := .illegalCommand } }) ∧
    (Admissible s s.ports.iores o → ∀ t, exec i s = .next t →
      t.result = { status := if t.running then .ok else .exited })

/-- Every iteration that runs records `floor(32 / max(1, size))` of the registry as it was at its start (R368). -/
def Obligations.IterationRecordsTheWaitTimeout : Prop :=
  (∀ (s t : State) (i : Instr) (o : WaitOutcome), outcomeOf i = some o → s.running = true →
    Admissible s s.ports.iores o → exec i s = .next t →
      t.waitTimeout.toNat = 32 / max 1 s.registry.length) ∧
  [0, 1, 2, 3, 5, 31, 32].map (fun n => (waitTimeoutFor n).toNat) = [32, 32, 16, 10, 6, 1, 1]

/-- The outcomes that bring no I/O result: `ENG_ITER.HARDERR` is fatal, also while a shutdown is pending (R366, R371);
`ENG_ITER.INTR` changes nothing but the recomputed wait timeout (R372); `ENG_ITER.CTRL` is the graceful stop (R365, R377). -/
def Obligations.WaitOutcomesWithoutIo : Prop :=
  decodeWord 0x3400 = .ok .engIterHarderr ∧ decodeWord 0x3401 = .ok .engIterIntr ∧
  decodeWord 0x3403 = .ok .engIterCtrl ∧ ∀ s : State, s.running = true →
    exec .engIterHarderr s = .next (stoppedBy s .fatalIo [.fatal .io]) ∧
    (s.intent.processPending = false →
      exec .engIterIntr s = .next { s with waitTimeout := timeoutOf s, result := { status := .ok } }) ∧
    (s.ctrlPending = true → exec .engIterCtrl s = .next (stoppedBy s .graceful []))

/-- `ENG_ITER.TXRDY` (R375). -/
def Obligations.RadioWriteOutcomes : Prop :=
  decodeWord 0x3405 = .ok .engIterTxrdy ∧ ∀ s : State, s.running = true → s.ctrlPending = false → s.intent = .writeRadio →
    (s.ports.iores = .ok →
      exec .engIterTxrdy s = .next { s with
        waitTimeout := timeoutOf s
        radioTx := s.radioTx ++ [s.bufs.rwb]
        bufs := { s.bufs with rwb := [] }
        intent := .readRadio
        result := { status := .ok } }) ∧
    (s.ports.iores = .wouldBlock →
      exec .engIterTxrdy s = .next { s with waitTimeout := timeoutOf s, result := { status := .ok } }) ∧
    (s.ports.iores = .error → exec .engIterTxrdy s = .next (stoppedBy s .fatalIo [.fatal .io]))

/-- `ENG_ITER.UDPRDY` (R376). -/
def Obligations.UdpSendOutcomes : Prop :=
  decodeWord 0x3406 = .ok .engIterUdprdy ∧ ∀ s : State, s.running = true → s.ctrlPending = false → s.intent = .writeUdp →
    (s.ports.iores = .ok →
      exec .engIterUdprdy s = .next { s with
        waitTimeout := timeoutOf s
        udpTx := s.udpTx ++ [⟨s.sServerIp, s.sServerPort, s.bufs.uwb⟩]
        bufs := { s.bufs with uwb := [] }
        intent := .readRadio
        result := { status := .ok } }) ∧
    (s.ports.iores = .wouldBlock →
      exec .engIterUdprdy s = .next { s with waitTimeout := timeoutOf s, result := { status := .ok } }) ∧
    (s.ports.iores = .error → exec .engIterUdprdy s = .next (stoppedBy s .fatalIo [.fatal .io]))

/-- `ENG_ITER.TIMEOUT` runs the scheduling tick whatever the intent flags (R373, R380, R381, R382, R491): of the records
with deficit at least `32 * OFFLINE_CYCLES` the one of largest `seq` is evicted and logged; of those that remain the
earliest-due one is polled; with none left, the intent is unchanged. That `THRESH` (R314) is an unbounded natural number
compared with the 32-bit deficit, for every `OFFLINE_CYCLES`, is the model's deduction: the spec gives it no width (log entry
15, DEDUCED, unsafe from 2^27 on). -/
def Obligations.TimeoutRunsTheTick : Prop :=
  decodeWord 0x3402 = .ok .engIterTimeout ∧ ∀ s : State, RegistryInv s → s.running = true → s.ctrlPending = false → s.intent.processPending = false →
    23 ≤ s.params.bufCap →
    let offline (r : SensorRecord) := 32 * s.params.offlineCycles ≤ (r.requestCount - r.responseCount).toNat
    ∃ (kept : List SensorRecord) (entries : List LogEntry),
      (((∀ r ∈ s.registry, ¬ offline r) ∧ kept = s.registry ∧ entries = []) ∨
        ∃ o ∈ s.registry, offline o ∧ (∀ q ∈ s.registry, offline q → q.seq ≤ o.seq) ∧
          kept = s.registry.filter (· ≠ o) ∧ entries = [.evict o.address]) ∧
      (kept = [] →
        exec .engIterTimeout s = .next { s with
          waitTimeout := timeoutOf s
          registry := []
          log := s.log ++ entries
          result := { status := .ok } }) ∧
      (kept ≠ [] →
        ∃ e ∈ kept,
          (∀ q ∈ kept, e.lastRequestTime < q.lastRequestTime ∨
            (e.lastRequestTime = q.lastRequestTime ∧ q.seq ≤ e.seq)) ∧
          exec .engIterTimeout s = .next { s with
            waitTimeout := timeoutOf s
            registry := kept.map fun q =>
              if q = e then
                { e with
                  state := .pollRequested
                  requestCount := e.requestCount + 1
                  lastRequestTime := s.ports.now }
              else q
            log := s.log ++ entries
            bufs := { s.bufs with rwb := controlPacket s.params s.params.cmdDreq e.address s.sLocal }
            intent := .writeRadio
            result := { status := .ok } })

/-- `ENG_ITER.RXRDY` without bytes: would-block changes nothing, an end of file and an error are fatal (R374, R366). -/
def Obligations.RadioReadWithoutBytes : Prop :=
  ∀ s : State, s.running = true → s.ctrlPending = false → s.intent = .readRadio →
    (s.ports.iores = .wouldBlock →
      exec .engIterRxrdy s = .next { s with waitTimeout := timeoutOf s, result := { status := .ok } }) ∧
    (s.ports.iores = .eof ∨ s.ports.iores = .error →
      exec .engIterRxrdy s = .next (stoppedBy s .fatalIo [.fatal .io]))

/-- A radio read that yields no packet, or one of an unrecognized command, is logged and dropped in the same iteration
(R374, R378, R390, R393, R398). -/
def Obligations.UnusableInputIsDropped : Prop :=
  ∀ (s : State) (v : List Byte), ReadyToRead s v →
    (∀ f, decodeBytes s.params v = .fail f → exec .engIterRxrdy s = .next (dropped s [.badPacket f])) ∧
    (∀ pkt, decodeBytes s.params v = .ok pkt → pkt.command ≠ s.params.cmdRreq → pkt.command ≠ s.params.cmdDrsp →
      exec .engIterRxrdy s = .next (dropped s [.unrecognizedCmd pkt.command]))

/-- Dispatch of a RegisterRequest (R391): the drops, a registration of a new address, and a duplicate one, which keeps its
record but for `RegisterPending` and still stages a RegisterResponse. -/
def Obligations.RegistrationDispatch : Prop :=
  ∀ (s : State) (v : List Byte) (pkt : Packet), ReadyToRead s v → RegistryInv s → 23 ≤ s.params.bufCap →
    decodeBytes s.params v = .ok pkt → pkt.command = s.params.cmdRreq →
    let outside := s.params.srcRangeCheck = true ∧ (pkt.src < 0x01000000 ∨ 0xFFFFFFFE < pkt.src)
    let accepted (reg : List SensorRecord) (seq : BitVec 64) (entries : List LogEntry) : State :=
      { s with
        waitTimeout := timeoutOf s
        registry := reg
        nextSeq := seq
        log := s.log ++ entries
        bufs := { s.bufs with rrb := [], rwb := controlPacket s.params s.params.cmdRrsp pkt.src s.sLocal }
        intent := .writeRadio
        result := { status := .ok } }
    (pkt.dest ≠ 0x00FFFFFF → exec .engIterRxrdy s = .next (dropped s [.unknownAddr pkt.dest])) ∧
    (pkt.dest = 0x00FFFFFF → outside → exec .engIterRxrdy s = .next (dropped s [.unknownAddr pkt.src])) ∧
    (pkt.dest = 0x00FFFFFF → ¬ outside → s.registry.length = 32 →
      exec .engIterRxrdy s = .next (dropped s [.capacity pkt.src])) ∧
    (pkt.dest = 0x00FFFFFF → ¬ outside → s.registry.length < 32 → (∀ r ∈ s.registry, r.address ≠ pkt.src) →
      s.nextSeq ≠ 0xFFFFFFFFFFFFFFFF →
        exec .engIterRxrdy s = .next (accepted
          (⟨pkt.src, .registerResponded, 0, 0, 0, none, s.nextSeq⟩ :: s.registry) (s.nextSeq + 1) [])) ∧
    (pkt.dest = 0x00FFFFFF → ¬ outside → s.registry.length < 32 → ∀ r ∈ s.registry, r.address = pkt.src →
      exec .engIterRxrdy s = .next (accepted
        (s.registry.map fun q =>
          if q = r ∧ r.state = .registerPending then { r with state := .registerResponded } else q)
        s.nextSeq [.duplicateReg pkt.src]))

/-- Dispatch of a DataResponse (R392): the drops, and the accepted response, whose 19 content bytes become the datagram. -/
def Obligations.PollResponseDispatch : Prop :=
  ∀ (s : State) (v : List Byte) (pkt : Packet), ReadyToRead s v → RegistryInv s → ParamsLegal s.params →
    decodeBytes s.params v = .ok pkt → pkt.command = s.params.cmdDrsp →
    (pkt.dest ≠ s.sLocal → exec .engIterRxrdy s = .next (dropped s [.unknownAddr pkt.dest])) ∧
    (pkt.dest = s.sLocal → pkt.contentLength ≠ 19 →
      exec .engIterRxrdy s = .next (dropped s [.unrecognizedCmd pkt.command])) ∧
    (pkt.dest = s.sLocal → pkt.contentLength = 19 →
      (∀ r ∈ s.registry, r.address = pkt.src → r.state ≠ .pollRequested) →
        exec .engIterRxrdy s = .next (dropped s [.stateMismatch pkt.src])) ∧
    (pkt.dest = s.sLocal → pkt.contentLength = 19 →
      ∀ r ∈ s.registry, r.address = pkt.src → r.state = .pollRequested →
        ∃ rd, pkt.reading = some rd ∧
          exec .engIterRxrdy s = .next { s with
            waitTimeout := timeoutOf s
            registry := s.registry.map fun q =>
              if q = r then
                { r with
                  state := .pollResponded
                  responseCount := r.responseCount + 1
                  lastReading := some rd }
              else q
            bufs := { s.bufs with rrb := [], uwb := slice v (pkt.offset + 4) 19 }
            intent := .writeUdp
            result := { status := .ok } })

/-! ### Whole-machine rules -/

/-- Every step keeps the iteration invariant of a running engine (R399, R64). -/
def Obligations.EveryStepKeepsIterationInv : Prop :=
  ∀ s t : State, IterationInv s → step s = .next t → IterationInv t

/-- Every step keeps: a running engine's latches agree with its registers (R66); a stopped engine has no intent and no
pending shutdown (R482); a written user id is legal (R53). -/
def Obligations.EveryStepKeepsConfigurationInv : Prop :=
  ∀ s t : State, LatchInv s ∧ StoppedInv s ∧ UserIdInv s → step s = .next t → LatchInv t ∧ StoppedInv t ∧ UserIdInv t

/-- The engine stops only on a hard error of the wait, a drained shutdown, or a hard I/O failure; protocol-corrupt input
never stops it, and an allocation failure never happens (R211, R400, R401). -/
def Obligations.EngineStopsOnlyOnFailureOrShutdown : Prop :=
  ∀ s t : State, 23 ≤ s.params.bufCap → IterationInv s → s.running = true → step s = .next t → t.running = false →
    ∃ c rest, s.pending = c :: rest ∧
      ((decodeWord c.word = .ok .engIterHarderr ∧ t.exitCause = .fatalIo) ∨
        (decodeWord c.word = .ok .engIterCtrl ∧ s.ctrlPending = true ∧ t.exitCause = .graceful) ∨
        (decodeWord c.word ∈ [.ok .engIterRxrdy, .ok .engIterTxrdy, .ok .engIterUdprdy] ∧
          (c.ports.iores = .error ∨ c.ports.iores = .eof) ∧ t.exitCause = .fatalIo))

/-- A datagram is staged only from a packet whose checksums both validate, addressed to the gateway, a DataResponse with data
content, from a sensor whose record awaits a response; and the UDP output grows only by the staged bytes (R402). -/
def Obligations.OnlyValidatedReadingsReachUdp : Prop :=
  ∀ (s t : State) (c : Command) (rest : List Command), IterationInv s → s.running = true →
    s.pending = c :: rest → step s = .next t →
      (t.intent = .writeUdp → s.intent ≠ .writeUdp →
        ∃ (v : List Byte) (i : Nat), c.ports.iores = .bytes v ∧
          ValidHeaderAt s.params v i ∧ byteAt v (i + 2) = 19 ∧ i + 23 ≤ v.length ∧ ValidContentAt s.params v i 19 ∧
          word32At v (i + 4) = s.sLocal ∧ byteAt v (i + 12) = s.params.cmdDrsp ∧
          (∃ r ∈ s.registry, r.address = word32At v (i + 8) ∧ r.state = .pollRequested) ∧
          t.bufs.uwb = slice v (i + 4) 19) ∧
      (t.udpTx = s.udpTx ∨
        s.intent = .writeUdp ∧ t.udpTx = s.udpTx ++ [⟨s.sServerIp, s.sServerPort, s.bufs.uwb⟩]) ∧
      (s.intent = .writeUdp → t.intent = .writeUdp → t.bufs.uwb = s.bufs.uwb)

/-- The output streams only grow (R62). -/
def Obligations.OutputStreamsOnlyGrow : Prop :=
  ∀ s t : State, step s = .next t →
    s.radioTx <+: t.radioTx ∧ s.udpTx <+: t.udpTx ∧ s.log <+: t.log ∧ s.devcap <+: t.devcap

/-- Power-on reset under every parameter value: what R67 states. -/
def Obligations.ResetIsAsTheSpecSays : Prop :=
  ∀ p : Params,
    let s := State.resetWith p
    s.bufs = ⟨[], [], [], []⟩ ∧ s.registry = [] ∧ s.nextSeq = 0 ∧
      s.localAddr.written = false ∧ s.userId.written = false ∧ s.dataRate.written = false ∧
      s.serverIp.written = false ∧ s.serverPort.written = false ∧
      s.engStatus = 0 ∧ s.intent.view = 0 ∧ s.regCount = 0 ∧ s.waitTimeout = 0 ∧
      s.radioTx = [] ∧ s.udpTx = [] ∧ s.log = [] ∧ s.devcap = [] ∧ s.running = false

/-- The invariants hold after power-on reset, under every parameter value. -/
def Obligations.ResetMeetsTheInvariants : Prop := ∀ p : Params, Sys2Proof.Safety.Inv (State.resetWith p)
end

