-- ==== Sys2Proof/Laws/State.lean ====
section
/-!
SUPPORT. One lemma per field per named update of State, true by rfl, so that no later proof unfolds a record update.
-/

namespace Sys2Proof.Machine

variable (s : State)

/-! ### finish -/

@[simp] theorem State.finish_params (r : ResultPorts) : (s.finish r).params = s.params := rfl
@[simp] theorem State.finish_pending (r : ResultPorts) : (s.finish r).pending = s.pending := rfl
@[simp] theorem State.finish_bufs (r : ResultPorts) : (s.finish r).bufs = s.bufs := rfl
@[simp] theorem State.finish_registry (r : ResultPorts) : (s.finish r).registry = s.registry := rfl
@[simp] theorem State.finish_nextSeq (r : ResultPorts) : (s.finish r).nextSeq = s.nextSeq := rfl
@[simp] theorem State.finish_localAddr (r : ResultPorts) : (s.finish r).localAddr = s.localAddr := rfl
@[simp] theorem State.finish_userId (r : ResultPorts) : (s.finish r).userId = s.userId := rfl
@[simp] theorem State.finish_dataRate (r : ResultPorts) : (s.finish r).dataRate = s.dataRate := rfl
@[simp] theorem State.finish_serverIp (r : ResultPorts) : (s.finish r).serverIp = s.serverIp := rfl
@[simp] theorem State.finish_serverPort (r : ResultPorts) : (s.finish r).serverPort = s.serverPort := rfl
@[simp] theorem State.finish_running (r : ResultPorts) : (s.finish r).running = s.running := rfl
@[simp] theorem State.finish_exitCause (r : ResultPorts) : (s.finish r).exitCause = s.exitCause := rfl
@[simp] theorem State.finish_ctrlPending (r : ResultPorts) : (s.finish r).ctrlPending = s.ctrlPending := rfl
@[simp] theorem State.finish_intent (r : ResultPorts) : (s.finish r).intent = s.intent := rfl
@[simp] theorem State.finish_waitTimeout (r : ResultPorts) : (s.finish r).waitTimeout = s.waitTimeout := rfl
@[simp] theorem State.finish_sLocal (r : ResultPorts) : (s.finish r).sLocal = s.sLocal := rfl
@[simp] theorem State.finish_sServerIp (r : ResultPorts) : (s.finish r).sServerIp = s.sServerIp := rfl
@[simp] theorem State.finish_sServerPort (r : ResultPorts) : (s.finish r).sServerPort = s.sServerPort := rfl
@[simp] theorem State.finish_radioTx (r : ResultPorts) : (s.finish r).radioTx = s.radioTx := rfl
@[simp] theorem State.finish_udpTx (r : ResultPorts) : (s.finish r).udpTx = s.udpTx := rfl
@[simp] theorem State.finish_log (r : ResultPorts) : (s.finish r).log = s.log := rfl
@[simp] theorem State.finish_devcap (r : ResultPorts) : (s.finish r).devcap = s.devcap := rfl
@[simp] theorem State.finish_result (r : ResultPorts) : (s.finish r).result = r := rfl

/-! ### raise -/

@[simp] theorem State.raise_params (st : Status) : (s.raise st).params = s.params := rfl
@[simp] theorem State.raise_pending (st : Status) : (s.raise st).pending = s.pending := rfl
@[simp] theorem State.raise_bufs (st : Status) : (s.raise st).bufs = s.bufs := rfl
@[simp] theorem State.raise_registry (st : Status) : (s.raise st).registry = s.registry := rfl
@[simp] theorem State.raise_nextSeq (st : Status) : (s.raise st).nextSeq = s.nextSeq := rfl
@[simp] theorem State.raise_localAddr (st : Status) : (s.raise st).localAddr = s.localAddr := rfl
@[simp] theorem State.raise_userId (st : Status) : (s.raise st).userId = s.userId := rfl
@[simp] theorem State.raise_dataRate (st : Status) : (s.raise st).dataRate = s.dataRate := rfl
@[simp] theorem State.raise_serverIp (st : Status) : (s.raise st).serverIp = s.serverIp := rfl
@[simp] theorem State.raise_serverPort (st : Status) : (s.raise st).serverPort = s.serverPort := rfl
@[simp] theorem State.raise_running (st : Status) : (s.raise st).running = s.running := rfl
@[simp] theorem State.raise_exitCause (st : Status) : (s.raise st).exitCause = s.exitCause := rfl
@[simp] theorem State.raise_ctrlPending (st : Status) : (s.raise st).ctrlPending = s.ctrlPending := rfl
@[simp] theorem State.raise_intent (st : Status) : (s.raise st).intent = s.intent := rfl
@[simp] theorem State.raise_waitTimeout (st : Status) : (s.raise st).waitTimeout = s.waitTimeout := rfl
@[simp] theorem State.raise_sLocal (st : Status) : (s.raise st).sLocal = s.sLocal := rfl
@[simp] theorem State.raise_sServerIp (st : Status) : (s.raise st).sServerIp = s.sServerIp := rfl
@[simp] theorem State.raise_sServerPort (st : Status) : (s.raise st).sServerPort = s.sServerPort := rfl
@[simp] theorem State.raise_radioTx (st : Status) : (s.raise st).radioTx = s.radioTx := rfl
@[simp] theorem State.raise_udpTx (st : Status) : (s.raise st).udpTx = s.udpTx := rfl
@[simp] theorem State.raise_log (st : Status) : (s.raise st).log = s.log := rfl
@[simp] theorem State.raise_devcap (st : Status) : (s.raise st).devcap = s.devcap := rfl
@[simp] theorem State.raise_result (st : Status) : (s.raise st).result = { status := st } := rfl

/-! ### retire -/

@[simp] theorem State.retire_params : s.retire.params = s.params := rfl
@[simp] theorem State.retire_pending : s.retire.pending = s.pending.tail := rfl
@[simp] theorem State.retire_bufs : s.retire.bufs = s.bufs := rfl
@[simp] theorem State.retire_registry : s.retire.registry = s.registry := rfl
@[simp] theorem State.retire_nextSeq : s.retire.nextSeq = s.nextSeq := rfl
@[simp] theorem State.retire_localAddr : s.retire.localAddr = s.localAddr := rfl
@[simp] theorem State.retire_userId : s.retire.userId = s.userId := rfl
@[simp] theorem State.retire_dataRate : s.retire.dataRate = s.dataRate := rfl
@[simp] theorem State.retire_serverIp : s.retire.serverIp = s.serverIp := rfl
@[simp] theorem State.retire_serverPort : s.retire.serverPort = s.serverPort := rfl
@[simp] theorem State.retire_running : s.retire.running = s.running := rfl
@[simp] theorem State.retire_exitCause : s.retire.exitCause = s.exitCause := rfl
@[simp] theorem State.retire_ctrlPending : s.retire.ctrlPending = s.ctrlPending := rfl
@[simp] theorem State.retire_intent : s.retire.intent = s.intent := rfl
@[simp] theorem State.retire_waitTimeout : s.retire.waitTimeout = s.waitTimeout := rfl
@[simp] theorem State.retire_sLocal : s.retire.sLocal = s.sLocal := rfl
@[simp] theorem State.retire_sServerIp : s.retire.sServerIp = s.sServerIp := rfl
@[simp] theorem State.retire_sServerPort : s.retire.sServerPort = s.sServerPort := rfl
@[simp] theorem State.retire_radioTx : s.retire.radioTx = s.radioTx := rfl
@[simp] theorem State.retire_udpTx : s.retire.udpTx = s.udpTx := rfl
@[simp] theorem State.retire_log : s.retire.log = s.log := rfl
@[simp] theorem State.retire_devcap : s.retire.devcap = s.devcap := rfl
@[simp] theorem State.retire_result : s.retire.result = s.result := rfl

/-! ### setBuf -/

@[simp] theorem State.setBuf_params (b : BufIdx) (v : List Byte) : (s.setBuf b v).params = s.params := rfl
@[simp] theorem State.setBuf_pending (b : BufIdx) (v : List Byte) : (s.setBuf b v).pending = s.pending := rfl
@[simp] theorem State.setBuf_bufs (b : BufIdx) (v : List Byte) : (s.setBuf b v).bufs = s.bufs.set b v := rfl
@[simp] theorem State.setBuf_registry (b : BufIdx) (v : List Byte) : (s.setBuf b v).registry = s.registry := rfl
@[simp] theorem State.setBuf_nextSeq (b : BufIdx) (v : List Byte) : (s.setBuf b v).nextSeq = s.nextSeq := rfl
@[simp] theorem State.setBuf_localAddr (b : BufIdx) (v : List Byte) : (s.setBuf b v).localAddr = s.localAddr := rfl
@[simp] theorem State.setBuf_userId (b : BufIdx) (v : List Byte) : (s.setBuf b v).userId = s.userId := rfl
@[simp] theorem State.setBuf_dataRate (b : BufIdx) (v : List Byte) : (s.setBuf b v).dataRate = s.dataRate := rfl
@[simp] theorem State.setBuf_serverIp (b : BufIdx) (v : List Byte) : (s.setBuf b v).serverIp = s.serverIp := rfl
@[simp] theorem State.setBuf_serverPort (b : BufIdx) (v : List Byte) : (s.setBuf b v).serverPort = s.serverPort := rfl
@[simp] theorem State.setBuf_running (b : BufIdx) (v : List Byte) : (s.setBuf b v).running = s.running := rfl
@[simp] theorem State.setBuf_exitCause (b : BufIdx) (v : List Byte) : (s.setBuf b v).exitCause = s.exitCause := rfl
@[simp] theorem State.setBuf_ctrlPending (b : BufIdx) (v : List Byte) : (s.setBuf b v).ctrlPending = s.ctrlPending := rfl
@[simp] theorem State.setBuf_intent (b : BufIdx) (v : List Byte) : (s.setBuf b v).intent = s.intent := rfl
@[simp] theorem State.setBuf_waitTimeout (b : BufIdx) (v : List Byte) : (s.setBuf b v).waitTimeout = s.waitTimeout := rfl
@[simp] theorem State.setBuf_sLocal (b : BufIdx) (v : List Byte) : (s.setBuf b v).sLocal = s.sLocal := rfl
@[simp] theorem State.setBuf_sServerIp (b : BufIdx) (v : List Byte) : (s.setBuf b v).sServerIp = s.sServerIp := rfl
@[simp] theorem State.setBuf_sServerPort (b : BufIdx) (v : List Byte) : (s.setBuf b v).sServerPort = s.sServerPort := rfl
@[simp] theorem State.setBuf_radioTx (b : BufIdx) (v : List Byte) : (s.setBuf b v).radioTx = s.radioTx := rfl
@[simp] theorem State.setBuf_udpTx (b : BufIdx) (v : List Byte) : (s.setBuf b v).udpTx = s.udpTx := rfl
@[simp] theorem State.setBuf_log (b : BufIdx) (v : List Byte) : (s.setBuf b v).log = s.log := rfl
@[simp] theorem State.setBuf_devcap (b : BufIdx) (v : List Byte) : (s.setBuf b v).devcap = s.devcap := rfl
@[simp] theorem State.setBuf_result (b : BufIdx) (v : List Byte) : (s.setBuf b v).result = s.result := rfl

/-! ### addLog -/

@[simp] theorem State.addLog_params (e : LogEntry) : (s.addLog e).params = s.params := rfl
@[simp] theorem State.addLog_pending (e : LogEntry) : (s.addLog e).pending = s.pending := rfl
@[simp] theorem State.addLog_bufs (e : LogEntry) : (s.addLog e).bufs = s.bufs := rfl
@[simp] theorem State.addLog_registry (e : LogEntry) : (s.addLog e).registry = s.registry := rfl
@[simp] theorem State.addLog_nextSeq (e : LogEntry) : (s.addLog e).nextSeq = s.nextSeq := rfl
@[simp] theorem State.addLog_localAddr (e : LogEntry) : (s.addLog e).localAddr = s.localAddr := rfl
@[simp] theorem State.addLog_userId (e : LogEntry) : (s.addLog e).userId = s.userId := rfl
@[simp] theorem State.addLog_dataRate (e : LogEntry) : (s.addLog e).dataRate = s.dataRate := rfl
@[simp] theorem State.addLog_serverIp (e : LogEntry) : (s.addLog e).serverIp = s.serverIp := rfl
@[simp] theorem State.addLog_serverPort (e : LogEntry) : (s.addLog e).serverPort = s.serverPort := rfl
@[simp] theorem State.addLog_running (e : LogEntry) : (s.addLog e).running = s.running := rfl
@[simp] theorem State.addLog_exitCause (e : LogEntry) : (s.addLog e).exitCause = s.exitCause := rfl
@[simp] theorem State.addLog_ctrlPending (e : LogEntry) : (s.addLog e).ctrlPending = s.ctrlPending := rfl
@[simp] theorem State.addLog_intent (e : LogEntry) : (s.addLog e).intent = s.intent := rfl
@[simp] theorem State.addLog_waitTimeout (e : LogEntry) : (s.addLog e).waitTimeout = s.waitTimeout := rfl
@[simp] theorem State.addLog_sLocal (e : LogEntry) : (s.addLog e).sLocal = s.sLocal := rfl
@[simp] theorem State.addLog_sServerIp (e : LogEntry) : (s.addLog e).sServerIp = s.sServerIp := rfl
@[simp] theorem State.addLog_sServerPort (e : LogEntry) : (s.addLog e).sServerPort = s.sServerPort := rfl
@[simp] theorem State.addLog_radioTx (e : LogEntry) : (s.addLog e).radioTx = s.radioTx := rfl
@[simp] theorem State.addLog_udpTx (e : LogEntry) : (s.addLog e).udpTx = s.udpTx := rfl
@[simp] theorem State.addLog_log (e : LogEntry) : (s.addLog e).log = s.log ++ [e] := rfl
@[simp] theorem State.addLog_devcap (e : LogEntry) : (s.addLog e).devcap = s.devcap := rfl
@[simp] theorem State.addLog_result (e : LogEntry) : (s.addLog e).result = s.result := rfl

/-! ### stopWith -/

@[simp] theorem State.stopWith_params (c : ExitCause) : (s.stopWith c).params = s.params := rfl
@[simp] theorem State.stopWith_pending (c : ExitCause) : (s.stopWith c).pending = s.pending := rfl
@[simp] theorem State.stopWith_bufs (c : ExitCause) : (s.stopWith c).bufs = .empty := rfl
@[simp] theorem State.stopWith_registry (c : ExitCause) : (s.stopWith c).registry = s.registry := rfl
@[simp] theorem State.stopWith_nextSeq (c : ExitCause) : (s.stopWith c).nextSeq = s.nextSeq := rfl
@[simp] theorem State.stopWith_localAddr (c : ExitCause) : (s.stopWith c).localAddr = s.localAddr := rfl
@[simp] theorem State.stopWith_userId (c : ExitCause) : (s.stopWith c).userId = s.userId := rfl
@[simp] theorem State.stopWith_dataRate (c : ExitCause) : (s.stopWith c).dataRate = s.dataRate := rfl
@[simp] theorem State.stopWith_serverIp (c : ExitCause) : (s.stopWith c).serverIp = s.serverIp := rfl
@[simp] theorem State.stopWith_serverPort (c : ExitCause) : (s.stopWith c).serverPort = s.serverPort := rfl
@[simp] theorem State.stopWith_running (c : ExitCause) : (s.stopWith c).running = false := rfl
@[simp] theorem State.stopWith_exitCause (c : ExitCause) : (s.stopWith c).exitCause = c := rfl
@[simp] theorem State.stopWith_ctrlPending (c : ExitCause) : (s.stopWith c).ctrlPending = false := rfl
@[simp] theorem State.stopWith_intent (c : ExitCause) : (s.stopWith c).intent = .clear := rfl
@[simp] theorem State.stopWith_waitTimeout (c : ExitCause) : (s.stopWith c).waitTimeout = s.waitTimeout := rfl
@[simp] theorem State.stopWith_sLocal (c : ExitCause) : (s.stopWith c).sLocal = s.sLocal := rfl
@[simp] theorem State.stopWith_sServerIp (c : ExitCause) : (s.stopWith c).sServerIp = s.sServerIp := rfl
@[simp] theorem State.stopWith_sServerPort (c : ExitCause) : (s.stopWith c).sServerPort = s.sServerPort := rfl
@[simp] theorem State.stopWith_radioTx (c : ExitCause) : (s.stopWith c).radioTx = s.radioTx := rfl
@[simp] theorem State.stopWith_udpTx (c : ExitCause) : (s.stopWith c).udpTx = s.udpTx := rfl
@[simp] theorem State.stopWith_log (c : ExitCause) : (s.stopWith c).log = s.log := rfl
@[simp] theorem State.stopWith_devcap (c : ExitCause) : (s.stopWith c).devcap = s.devcap := rfl
@[simp] theorem State.stopWith_result (c : ExitCause) : (s.stopWith c).result = s.result := rfl

/-! ### fatal -/

@[simp] theorem State.fatal_params (c : FatalCause) : (s.fatal c).params = s.params := rfl
@[simp] theorem State.fatal_pending (c : FatalCause) : (s.fatal c).pending = s.pending := rfl
@[simp] theorem State.fatal_bufs (c : FatalCause) : (s.fatal c).bufs = .empty := rfl
@[simp] theorem State.fatal_registry (c : FatalCause) : (s.fatal c).registry = s.registry := rfl
@[simp] theorem State.fatal_nextSeq (c : FatalCause) : (s.fatal c).nextSeq = s.nextSeq := rfl
@[simp] theorem State.fatal_localAddr (c : FatalCause) : (s.fatal c).localAddr = s.localAddr := rfl
@[simp] theorem State.fatal_userId (c : FatalCause) : (s.fatal c).userId = s.userId := rfl
@[simp] theorem State.fatal_dataRate (c : FatalCause) : (s.fatal c).dataRate = s.dataRate := rfl
@[simp] theorem State.fatal_serverIp (c : FatalCause) : (s.fatal c).serverIp = s.serverIp := rfl
@[simp] theorem State.fatal_serverPort (c : FatalCause) : (s.fatal c).serverPort = s.serverPort := rfl
@[simp] theorem State.fatal_running (c : FatalCause) : (s.fatal c).running = false := rfl
@[simp] theorem State.fatal_exitCause (c : FatalCause) : (s.fatal c).exitCause = c.exitCause := rfl
@[simp] theorem State.fatal_ctrlPending (c : FatalCause) : (s.fatal c).ctrlPending = false := rfl
@[simp] theorem State.fatal_intent (c : FatalCause) : (s.fatal c).intent = .clear := rfl
@[simp] theorem State.fatal_waitTimeout (c : FatalCause) : (s.fatal c).waitTimeout = s.waitTimeout := rfl
@[simp] theorem State.fatal_sLocal (c : FatalCause) : (s.fatal c).sLocal = s.sLocal := rfl
@[simp] theorem State.fatal_sServerIp (c : FatalCause) : (s.fatal c).sServerIp = s.sServerIp := rfl
@[simp] theorem State.fatal_sServerPort (c : FatalCause) : (s.fatal c).sServerPort = s.sServerPort := rfl
@[simp] theorem State.fatal_radioTx (c : FatalCause) : (s.fatal c).radioTx = s.radioTx := rfl
@[simp] theorem State.fatal_udpTx (c : FatalCause) : (s.fatal c).udpTx = s.udpTx := rfl
@[simp] theorem State.fatal_log (c : FatalCause) : (s.fatal c).log = s.log ++ [.fatal c] := rfl
@[simp] theorem State.fatal_devcap (c : FatalCause) : (s.fatal c).devcap = s.devcap := rfl
@[simp] theorem State.fatal_result (c : FatalCause) : (s.fatal c).result = s.result := rfl

/-! ### gracefulStop -/

@[simp] theorem State.gracefulStop_params : s.gracefulStop.params = s.params := rfl
@[simp] theorem State.gracefulStop_pending : s.gracefulStop.pending = s.pending := rfl
@[simp] theorem State.gracefulStop_bufs : s.gracefulStop.bufs = .empty := rfl
@[simp] theorem State.gracefulStop_registry : s.gracefulStop.registry = s.registry := rfl
@[simp] theorem State.gracefulStop_nextSeq : s.gracefulStop.nextSeq = s.nextSeq := rfl
@[simp] theorem State.gracefulStop_localAddr : s.gracefulStop.localAddr = s.localAddr := rfl
@[simp] theorem State.gracefulStop_userId : s.gracefulStop.userId = s.userId := rfl
@[simp] theorem State.gracefulStop_dataRate : s.gracefulStop.dataRate = s.dataRate := rfl
@[simp] theorem State.gracefulStop_serverIp : s.gracefulStop.serverIp = s.serverIp := rfl
@[simp] theorem State.gracefulStop_serverPort : s.gracefulStop.serverPort = s.serverPort := rfl
@[simp] theorem State.gracefulStop_running : s.gracefulStop.running = false := rfl
@[simp] theorem State.gracefulStop_exitCause : s.gracefulStop.exitCause = .graceful := rfl
@[simp] theorem State.gracefulStop_ctrlPending : s.gracefulStop.ctrlPending = false := rfl
@[simp] theorem State.gracefulStop_intent : s.gracefulStop.intent = .clear := rfl
@[simp] theorem State.gracefulStop_waitTimeout : s.gracefulStop.waitTimeout = s.waitTimeout := rfl
@[simp] theorem State.gracefulStop_sLocal : s.gracefulStop.sLocal = s.sLocal := rfl
@[simp] theorem State.gracefulStop_sServerIp : s.gracefulStop.sServerIp = s.sServerIp := rfl
@[simp] theorem State.gracefulStop_sServerPort : s.gracefulStop.sServerPort = s.sServerPort := rfl
@[simp] theorem State.gracefulStop_radioTx : s.gracefulStop.radioTx = s.radioTx := rfl
@[simp] theorem State.gracefulStop_udpTx : s.gracefulStop.udpTx = s.udpTx := rfl
@[simp] theorem State.gracefulStop_log : s.gracefulStop.log = s.log := rfl
@[simp] theorem State.gracefulStop_devcap : s.gracefulStop.devcap = s.devcap := rfl
@[simp] theorem State.gracefulStop_result : s.gracefulStop.result = s.result := rfl

/-! ### insertRecord -/

@[simp] theorem State.insertRecord_params (r : SensorRecord) : (s.insertRecord r).params = s.params := rfl
@[simp] theorem State.insertRecord_pending (r : SensorRecord) : (s.insertRecord r).pending = s.pending := rfl
@[simp] theorem State.insertRecord_bufs (r : SensorRecord) : (s.insertRecord r).bufs = s.bufs := rfl
@[simp] theorem State.insertRecord_registry (r : SensorRecord) : (s.insertRecord r).registry = r :: s.registry := rfl
@[simp] theorem State.insertRecord_nextSeq (r : SensorRecord) : (s.insertRecord r).nextSeq = s.nextSeq + 1 := rfl
@[simp] theorem State.insertRecord_localAddr (r : SensorRecord) : (s.insertRecord r).localAddr = s.localAddr := rfl
@[simp] theorem State.insertRecord_userId (r : SensorRecord) : (s.insertRecord r).userId = s.userId := rfl
@[simp] theorem State.insertRecord_dataRate (r : SensorRecord) : (s.insertRecord r).dataRate = s.dataRate := rfl
@[simp] theorem State.insertRecord_serverIp (r : SensorRecord) : (s.insertRecord r).serverIp = s.serverIp := rfl
@[simp] theorem State.insertRecord_serverPort (r : SensorRecord) : (s.insertRecord r).serverPort = s.serverPort := rfl
@[simp] theorem State.insertRecord_running (r : SensorRecord) : (s.insertRecord r).running = s.running := rfl
@[simp] theorem State.insertRecord_exitCause (r : SensorRecord) : (s.insertRecord r).exitCause = s.exitCause := rfl
@[simp] theorem State.insertRecord_ctrlPending (r : SensorRecord) : (s.insertRecord r).ctrlPending = s.ctrlPending := rfl
@[simp] theorem State.insertRecord_intent (r : SensorRecord) : (s.insertRecord r).intent = s.intent := rfl
@[simp] theorem State.insertRecord_waitTimeout (r : SensorRecord) : (s.insertRecord r).waitTimeout = s.waitTimeout := rfl
@[simp] theorem State.insertRecord_sLocal (r : SensorRecord) : (s.insertRecord r).sLocal = s.sLocal := rfl
@[simp] theorem State.insertRecord_sServerIp (r : SensorRecord) : (s.insertRecord r).sServerIp = s.sServerIp := rfl
@[simp] theorem State.insertRecord_sServerPort (r : SensorRecord) : (s.insertRecord r).sServerPort = s.sServerPort := rfl
@[simp] theorem State.insertRecord_radioTx (r : SensorRecord) : (s.insertRecord r).radioTx = s.radioTx := rfl
@[simp] theorem State.insertRecord_udpTx (r : SensorRecord) : (s.insertRecord r).udpTx = s.udpTx := rfl
@[simp] theorem State.insertRecord_log (r : SensorRecord) : (s.insertRecord r).log = s.log := rfl
@[simp] theorem State.insertRecord_devcap (r : SensorRecord) : (s.insertRecord r).devcap = s.devcap := rfl
@[simp] theorem State.insertRecord_result (r : SensorRecord) : (s.insertRecord r).result = s.result := rfl

/-! ### updateRecord -/

@[simp] theorem State.updateRecord_params (a : Addr) (f : SensorRecord → SensorRecord) : (s.updateRecord a f).params = s.params := rfl
@[simp] theorem State.updateRecord_pending (a : Addr) (f : SensorRecord → SensorRecord) : (s.updateRecord a f).pending = s.pending := rfl
@[simp] theorem State.updateRecord_bufs (a : Addr) (f : SensorRecord → SensorRecord) : (s.updateRecord a f).bufs = s.bufs := rfl
@[simp] theorem State.updateRecord_registry (a : Addr) (f : SensorRecord → SensorRecord) : (s.updateRecord a f).registry = Machine.updateRecord s.registry a f := rfl
@[simp] theorem State.updateRecord_nextSeq (a : Addr) (f : SensorRecord → SensorRecord) : (s.updateRecord a f).nextSeq = s.nextSeq := rfl
@[simp] theorem State.updateRecord_localAddr (a : Addr) (f : SensorRecord → SensorRecord) : (s.updateRecord a f).localAddr = s.localAddr := rfl
@[simp] theorem State.updateRecord_userId (a : Addr) (f : SensorRecord → SensorRecord) : (s.updateRecord a f).userId = s.userId := rfl
@[simp] theorem State.updateRecord_dataRate (a : Addr) (f : SensorRecord → SensorRecord) : (s.updateRecord a f).dataRate = s.dataRate := rfl
@[simp] theorem State.updateRecord_serverIp (a : Addr) (f : SensorRecord → SensorRecord) : (s.updateRecord a f).serverIp = s.serverIp := rfl
@[simp] theorem State.updateRecord_serverPort (a : Addr) (f : SensorRecord → SensorRecord) : (s.updateRecord a f).serverPort = s.serverPort := rfl
@[simp] theorem State.updateRecord_running (a : Addr) (f : SensorRecord → SensorRecord) : (s.updateRecord a f).running = s.running := rfl
@[simp] theorem State.updateRecord_exitCause (a : Addr) (f : SensorRecord → SensorRecord) : (s.updateRecord a f).exitCause = s.exitCause := rfl
@[simp] theorem State.updateRecord_ctrlPending (a : Addr) (f : SensorRecord → SensorRecord) : (s.updateRecord a f).ctrlPending = s.ctrlPending := rfl
@[simp] theorem State.updateRecord_intent (a : Addr) (f : SensorRecord → SensorRecord) : (s.updateRecord a f).intent = s.intent := rfl
@[simp] theorem State.updateRecord_waitTimeout (a : Addr) (f : SensorRecord → SensorRecord) : (s.updateRecord a f).waitTimeout = s.waitTimeout := rfl
@[simp] theorem State.updateRecord_sLocal (a : Addr) (f : SensorRecord → SensorRecord) : (s.updateRecord a f).sLocal = s.sLocal := rfl
@[simp] theorem State.updateRecord_sServerIp (a : Addr) (f : SensorRecord → SensorRecord) : (s.updateRecord a f).sServerIp = s.sServerIp := rfl
@[simp] theorem State.updateRecord_sServerPort (a : Addr) (f : SensorRecord → SensorRecord) : (s.updateRecord a f).sServerPort = s.sServerPort := rfl
@[simp] theorem State.updateRecord_radioTx (a : Addr) (f : SensorRecord → SensorRecord) : (s.updateRecord a f).radioTx = s.radioTx := rfl
@[simp] theorem State.updateRecord_udpTx (a : Addr) (f : SensorRecord → SensorRecord) : (s.updateRecord a f).udpTx = s.udpTx := rfl
@[simp] theorem State.updateRecord_log (a : Addr) (f : SensorRecord → SensorRecord) : (s.updateRecord a f).log = s.log := rfl
@[simp] theorem State.updateRecord_devcap (a : Addr) (f : SensorRecord → SensorRecord) : (s.updateRecord a f).devcap = s.devcap := rfl
@[simp] theorem State.updateRecord_result (a : Addr) (f : SensorRecord → SensorRecord) : (s.updateRecord a f).result = s.result := rfl

/-! ### removeRecord -/

@[simp] theorem State.removeRecord_params (a : Addr) : (s.removeRecord a).params = s.params := rfl
@[simp] theorem State.removeRecord_pending (a : Addr) : (s.removeRecord a).pending = s.pending := rfl
@[simp] theorem State.removeRecord_bufs (a : Addr) : (s.removeRecord a).bufs = s.bufs := rfl
@[simp] theorem State.removeRecord_registry (a : Addr) : (s.removeRecord a).registry = Machine.removeRecord s.registry a := rfl
@[simp] theorem State.removeRecord_nextSeq (a : Addr) : (s.removeRecord a).nextSeq = s.nextSeq := rfl
@[simp] theorem State.removeRecord_localAddr (a : Addr) : (s.removeRecord a).localAddr = s.localAddr := rfl
@[simp] theorem State.removeRecord_userId (a : Addr) : (s.removeRecord a).userId = s.userId := rfl
@[simp] theorem State.removeRecord_dataRate (a : Addr) : (s.removeRecord a).dataRate = s.dataRate := rfl
@[simp] theorem State.removeRecord_serverIp (a : Addr) : (s.removeRecord a).serverIp = s.serverIp := rfl
@[simp] theorem State.removeRecord_serverPort (a : Addr) : (s.removeRecord a).serverPort = s.serverPort := rfl
@[simp] theorem State.removeRecord_running (a : Addr) : (s.removeRecord a).running = s.running := rfl
@[simp] theorem State.removeRecord_exitCause (a : Addr) : (s.removeRecord a).exitCause = s.exitCause := rfl
@[simp] theorem State.removeRecord_ctrlPending (a : Addr) : (s.removeRecord a).ctrlPending = s.ctrlPending := rfl
@[simp] theorem State.removeRecord_intent (a : Addr) : (s.removeRecord a).intent = s.intent := rfl
@[simp] theorem State.removeRecord_waitTimeout (a : Addr) : (s.removeRecord a).waitTimeout = s.waitTimeout := rfl
@[simp] theorem State.removeRecord_sLocal (a : Addr) : (s.removeRecord a).sLocal = s.sLocal := rfl
@[simp] theorem State.removeRecord_sServerIp (a : Addr) : (s.removeRecord a).sServerIp = s.sServerIp := rfl
@[simp] theorem State.removeRecord_sServerPort (a : Addr) : (s.removeRecord a).sServerPort = s.sServerPort := rfl
@[simp] theorem State.removeRecord_radioTx (a : Addr) : (s.removeRecord a).radioTx = s.radioTx := rfl
@[simp] theorem State.removeRecord_udpTx (a : Addr) : (s.removeRecord a).udpTx = s.udpTx := rfl
@[simp] theorem State.removeRecord_log (a : Addr) : (s.removeRecord a).log = s.log := rfl
@[simp] theorem State.removeRecord_devcap (a : Addr) : (s.removeRecord a).devcap = s.devcap := rfl
@[simp] theorem State.removeRecord_result (a : Addr) : (s.removeRecord a).result = s.result := rfl

/-! ### setIo -/

@[simp] theorem State.setIo_params (io : Intent) : (s.setIo io).params = s.params := rfl
@[simp] theorem State.setIo_pending (io : Intent) : (s.setIo io).pending = s.pending := rfl
@[simp] theorem State.setIo_bufs (io : Intent) : (s.setIo io).bufs = s.bufs := rfl
@[simp] theorem State.setIo_registry (io : Intent) : (s.setIo io).registry = s.registry := rfl
@[simp] theorem State.setIo_nextSeq (io : Intent) : (s.setIo io).nextSeq = s.nextSeq := rfl
@[simp] theorem State.setIo_localAddr (io : Intent) : (s.setIo io).localAddr = s.localAddr := rfl
@[simp] theorem State.setIo_userId (io : Intent) : (s.setIo io).userId = s.userId := rfl
@[simp] theorem State.setIo_dataRate (io : Intent) : (s.setIo io).dataRate = s.dataRate := rfl
@[simp] theorem State.setIo_serverIp (io : Intent) : (s.setIo io).serverIp = s.serverIp := rfl
@[simp] theorem State.setIo_serverPort (io : Intent) : (s.setIo io).serverPort = s.serverPort := rfl
@[simp] theorem State.setIo_running (io : Intent) : (s.setIo io).running = s.running := rfl
@[simp] theorem State.setIo_exitCause (io : Intent) : (s.setIo io).exitCause = s.exitCause := rfl
@[simp] theorem State.setIo_ctrlPending (io : Intent) : (s.setIo io).ctrlPending = s.ctrlPending := rfl
@[simp] theorem State.setIo_intent (io : Intent) : (s.setIo io).intent = s.intent.withIo io := rfl
@[simp] theorem State.setIo_waitTimeout (io : Intent) : (s.setIo io).waitTimeout = s.waitTimeout := rfl
@[simp] theorem State.setIo_sLocal (io : Intent) : (s.setIo io).sLocal = s.sLocal := rfl
@[simp] theorem State.setIo_sServerIp (io : Intent) : (s.setIo io).sServerIp = s.sServerIp := rfl
@[simp] theorem State.setIo_sServerPort (io : Intent) : (s.setIo io).sServerPort = s.sServerPort := rfl
@[simp] theorem State.setIo_radioTx (io : Intent) : (s.setIo io).radioTx = s.radioTx := rfl
@[simp] theorem State.setIo_udpTx (io : Intent) : (s.setIo io).udpTx = s.udpTx := rfl
@[simp] theorem State.setIo_log (io : Intent) : (s.setIo io).log = s.log := rfl
@[simp] theorem State.setIo_devcap (io : Intent) : (s.setIo io).devcap = s.devcap := rfl
@[simp] theorem State.setIo_result (io : Intent) : (s.setIo io).result = s.result := rfl

/-! ### endProcess -/

@[simp] theorem State.endProcess_params : s.endProcess.params = s.params := rfl
@[simp] theorem State.endProcess_pending : s.endProcess.pending = s.pending := rfl
@[simp] theorem State.endProcess_bufs : s.endProcess.bufs = s.bufs.set .rrb [] := rfl
@[simp] theorem State.endProcess_registry : s.endProcess.registry = s.registry := rfl
@[simp] theorem State.endProcess_nextSeq : s.endProcess.nextSeq = s.nextSeq := rfl
@[simp] theorem State.endProcess_localAddr : s.endProcess.localAddr = s.localAddr := rfl
@[simp] theorem State.endProcess_userId : s.endProcess.userId = s.userId := rfl
@[simp] theorem State.endProcess_dataRate : s.endProcess.dataRate = s.dataRate := rfl
@[simp] theorem State.endProcess_serverIp : s.endProcess.serverIp = s.serverIp := rfl
@[simp] theorem State.endProcess_serverPort : s.endProcess.serverPort = s.serverPort := rfl
@[simp] theorem State.endProcess_running : s.endProcess.running = s.running := rfl
@[simp] theorem State.endProcess_exitCause : s.endProcess.exitCause = s.exitCause := rfl
@[simp] theorem State.endProcess_ctrlPending : s.endProcess.ctrlPending = s.ctrlPending := rfl
@[simp] theorem State.endProcess_intent : s.endProcess.intent = { s.intent with processPending := false } := rfl
@[simp] theorem State.endProcess_waitTimeout : s.endProcess.waitTimeout = s.waitTimeout := rfl
@[simp] theorem State.endProcess_sLocal : s.endProcess.sLocal = s.sLocal := rfl
@[simp] theorem State.endProcess_sServerIp : s.endProcess.sServerIp = s.sServerIp := rfl
@[simp] theorem State.endProcess_sServerPort : s.endProcess.sServerPort = s.sServerPort := rfl
@[simp] theorem State.endProcess_radioTx : s.endProcess.radioTx = s.radioTx := rfl
@[simp] theorem State.endProcess_udpTx : s.endProcess.udpTx = s.udpTx := rfl
@[simp] theorem State.endProcess_log : s.endProcess.log = s.log := rfl
@[simp] theorem State.endProcess_devcap : s.endProcess.devcap = s.devcap := rfl
@[simp] theorem State.endProcess_result : s.endProcess.result = s.result := rfl

/-! ### endIteration -/

@[simp] theorem State.endIteration_params : s.endIteration.params = s.params := rfl
@[simp] theorem State.endIteration_pending : s.endIteration.pending = s.pending := rfl
@[simp] theorem State.endIteration_bufs : s.endIteration.bufs = s.bufs := rfl
@[simp] theorem State.endIteration_registry : s.endIteration.registry = s.registry := rfl
@[simp] theorem State.endIteration_nextSeq : s.endIteration.nextSeq = s.nextSeq := rfl
@[simp] theorem State.endIteration_localAddr : s.endIteration.localAddr = s.localAddr := rfl
@[simp] theorem State.endIteration_userId : s.endIteration.userId = s.userId := rfl
@[simp] theorem State.endIteration_dataRate : s.endIteration.dataRate = s.dataRate := rfl
@[simp] theorem State.endIteration_serverIp : s.endIteration.serverIp = s.serverIp := rfl
@[simp] theorem State.endIteration_serverPort : s.endIteration.serverPort = s.serverPort := rfl
@[simp] theorem State.endIteration_running : s.endIteration.running = s.running := rfl
@[simp] theorem State.endIteration_exitCause : s.endIteration.exitCause = s.exitCause := rfl
@[simp] theorem State.endIteration_ctrlPending : s.endIteration.ctrlPending = s.ctrlPending := rfl
@[simp] theorem State.endIteration_intent : s.endIteration.intent = s.intent := rfl
@[simp] theorem State.endIteration_waitTimeout : s.endIteration.waitTimeout = s.waitTimeout := rfl
@[simp] theorem State.endIteration_sLocal : s.endIteration.sLocal = s.sLocal := rfl
@[simp] theorem State.endIteration_sServerIp : s.endIteration.sServerIp = s.sServerIp := rfl
@[simp] theorem State.endIteration_sServerPort : s.endIteration.sServerPort = s.sServerPort := rfl
@[simp] theorem State.endIteration_radioTx : s.endIteration.radioTx = s.radioTx := rfl
@[simp] theorem State.endIteration_udpTx : s.endIteration.udpTx = s.udpTx := rfl
@[simp] theorem State.endIteration_log : s.endIteration.log = s.log := rfl
@[simp] theorem State.endIteration_devcap : s.endIteration.devcap = s.devcap := rfl
@[simp] theorem State.endIteration_result : s.endIteration.result = { status := if s.running then .ok else .exited } := rfl

end Sys2Proof.Machine
end

