-- ==== Sys2Proof/Laws/Ops.lean ====
section
/-!
SUPPORT. One lemma per shared operation, saying what it can answer: the guards, the buffer accessors and writes, the
byte-order helpers, the common part of an iteration.
-/

namespace Sys2Proof.Machine

/-! ### Sequencing and guards -/

@[simp] theorem andThen_next (s : State) (k : State → Out) : andThen (.next s) k = k s := rfl

theorem andThen_eq_next {o : Out} {k : State → Out} {t : State} (h : andThen o k = .next t) :
    ∃ s, o = .next s ∧ k s = .next t := by
  cases o with
  | next s => exact ⟨s, rfl, h⟩
  | fault r => cases h
  | refused r => cases h

@[simp] theorem whenStopped_of_stopped {s : State} (h : s.running = false) (k : State → Out) :
    whenStopped s k = k s := by simp [whenStopped, h]

@[simp] theorem whenStopped_of_running {s : State} (h : s.running = true) (k : State → Out) :
    whenStopped s k = .next (s.raise .busy) := by simp [whenStopped, h]

@[simp] theorem whenRunning_of_running {s : State} (h : s.running = true) (k : State → Out) :
    whenRunning s k = k s := by simp [whenRunning, h]

@[simp] theorem whenRunning_of_stopped {s : State} (h : s.running = false) (k : State → Out) :
    whenRunning s k = .next (s.raise .notRunning) := by simp [whenRunning, h]

theorem whenStopped_eq_next {s t : State} {k : State → Out} (h : whenStopped s k = .next t) :
    (s.running = true ∧ t = s.raise .busy) ∨ (s.running = false ∧ k s = .next t) := by
  cases hr : s.running
  · exact .inr ⟨rfl, by simpa [hr] using h⟩
  · exact .inl ⟨rfl, by simpa [hr] using h.symm⟩

/-! ### Buffers -/

@[simp] theorem Buffers.get_set_self (m : Buffers) (b : BufIdx) (v : List Byte) : (m.set b v).get b = v := by
  cases b <;> rfl

theorem Buffers.get_set_of_ne (m : Buffers) {b c : BufIdx} (h : c ≠ b) (v : List Byte) :
    (m.set b v).get c = m.get c := by
  cases b <;> cases c <;> first | rfl | exact absurd rfl h

@[simp] theorem Buffers.set_rrb (m : Buffers) (v : List Byte) : m.set .rrb v = { m with rrb := v } := rfl
@[simp] theorem Buffers.set_rwb (m : Buffers) (v : List Byte) : m.set .rwb v = { m with rwb := v } := rfl
@[simp] theorem Buffers.set_urb (m : Buffers) (v : List Byte) : m.set .urb v = { m with urb := v } := rfl
@[simp] theorem Buffers.set_uwb (m : Buffers) (v : List Byte) : m.set .uwb v = { m with uwb := v } := rfl

@[simp] theorem State.buf_finish (s : State) (r : ResultPorts) (b : BufIdx) : (s.finish r).buf b = s.buf b := rfl

@[simp] theorem State.buf_setBuf_self (s : State) (b : BufIdx) (v : List Byte) : (s.setBuf b v).buf b = v := by
  simp [State.buf]

theorem State.buf_setBuf_of_ne (s : State) {b c : BufIdx} (h : c ≠ b) (v : List Byte) :
    (s.setBuf b v).buf c = s.buf c := s.bufs.get_set_of_ne h v

/-- A byte of another buffer reads as before a write. -/
theorem State.readByte_setBuf_of_ne (s : State) {b c : BufIdx} (h : c ≠ b) (v : List Byte) (k : Nat) :
    (s.setBuf b v).readByte c k = s.readByte c k := by
  simp [State.readByte, s.buf_setBuf_of_ne h]

@[simp] theorem slice_length (v : List Byte) (off n : Nat) : (slice v off n).length = min n (v.length - off) := by
  simp [slice]

theorem hostBufWrite_of_fits {s : State} {v : List Byte} (h : v.length ≤ s.params.bufCap) (b : BufIdx) :
    hostBufWrite s b v = .next ((s.setBuf b v).finish { status := .ok }) := by simp [hostBufWrite, h]

theorem hostBufWrite_of_exceeds {s : State} {v : List Byte} (h : s.params.bufCap < v.length) (b : BufIdx) :
    hostBufWrite s b v = .next (s.raise .allocFail) := by simp [hostBufWrite, Nat.not_le.mpr h]

theorem hostBufWrite_eq_next {s t : State} {b : BufIdx} {v : List Byte} (h : hostBufWrite s b v = .next t) :
    (v.length ≤ s.params.bufCap ∧ t = (s.setBuf b v).finish { status := .ok }) ∨
      (s.params.bufCap < v.length ∧ t = s.raise .allocFail) := by
  rcases Nat.lt_or_ge s.params.bufCap v.length with hv | hv
  · exact .inr ⟨hv, by simpa [hostBufWrite_of_exceeds hv] using h.symm⟩
  · exact .inl ⟨hv, by simpa [hostBufWrite_of_fits hv] using h.symm⟩

theorem State.ctlBufWrite_of_fits {s : State} {v : List Byte} (h : v.length ≤ s.params.bufCap) (b : BufIdx)
    (k : State → State) : s.ctlBufWrite b v k = k (s.setBuf b v) := by simp [State.ctlBufWrite, h]

/-- A controller's write either goes through or stops the engine for want of room. -/
theorem State.ctlBufWrite_cases (s : State) (b : BufIdx) (v : List Byte) (k : State → State) :
    (v.length ≤ s.params.bufCap ∧ s.ctlBufWrite b v k = k (s.setBuf b v)) ∨
      (s.params.bufCap < v.length ∧ s.ctlBufWrite b v k = s.fatal .alloc) := by
  rcases Nat.lt_or_ge s.params.bufCap v.length with hv | hv
  · exact .inr ⟨hv, by simp [State.ctlBufWrite, Nat.not_le.mpr hv]⟩
  · exact .inl ⟨hv, ctlBufWrite_of_fits hv b k⟩

/-! ### Byte order -/

@[simp] theorem le32_length (v : BitVec 32) : (le32 v).length = 4 := rfl

/-- Reading back what `le32` wrote gives the value (R10, R103). -/
theorem rd32_le32 (v : BitVec 32) :
    rd32 (v.extractLsb' 0 8) (v.extractLsb' 8 8) (v.extractLsb' 16 8) (v.extractLsb' 24 8) = v := by
  apply BitVec.eq_of_getLsbD_eq
  intro i hi
  simp only [rd32, BitVec.getLsbD_append, BitVec.getLsbD_extractLsb']
  interval_cases i <;> rfl

/-! ### The reference checksum -/

theorem foldl_add_eq (v : List Byte) (a : Byte) : v.foldl (· + ·) a = a + v.foldl (· + ·) 0 := by
  induction v generalizing a with
  | nil => simp
  | cons b v ih => simp only [List.foldl_cons]; rw [ih, ih (0 + b)]; simp [BitVec.add_assoc]

theorem xor_twoPow_ne (b : Byte) {j : Nat} (h : j < 8) : b ^^^ BitVec.twoPow 8 j ≠ b := by
  intro e
  have := congrArg (fun x => x.getLsbD j) e
  simp [h] at this

/-- Inverting one bit of a byte string changes the sum of its bytes (R201, R202). -/
theorem sumMod256_flipBit_ne (v : List Byte) (k j : Nat) (hk : k < v.length) (hj : j < 8) :
    sumMod256 (Sys2Proof.Safety.flipBit v k j) ≠ sumMod256 v := by
  unfold Sys2Proof.Safety.flipBit sumMod256
  induction v generalizing k with
  | nil => simp at hk
  | cons b v ih =>
    cases k with
    | zero =>
      simp only [List.modify_zero_cons, List.foldl_cons]
      rw [foldl_add_eq, foldl_add_eq v (0 + b)]
      exact fun h => xor_twoPow_ne b hj (add_left_cancel (add_right_cancel h))
    | succ k =>
      simp only [List.modify_succ_cons, List.foldl_cons]
      rw [foldl_add_eq, foldl_add_eq v (0 + b)]
      exact fun h => ih k (by simpa using hk) (add_left_cancel h)

/-! ### One iteration -/

/-- The state the rule of an outcome starts from: the wait timeout is recorded (R364, R368). -/
def State.armed (s : State) : State := { s with waitTimeout := waitTimeoutFor s.registry.length }

/-- The processing check (R378). -/
def processIfPending (s : State) : Out := if s.running && s.intent.processPending then process s else .next s

theorem engIter_of_inadmissible {s : State} {o : WaitOutcome} (hr : s.running = true)
    (ha : admissible s s.ports.iores o = false) (rule : State → State) :
    engIter o rule s = .next (s.raise .illegalCommand) := by simp [engIter, hr, ha]

theorem engIter_of_admissible {s : State} {o : WaitOutcome} (hr : s.running = true)
    (ha : admissible s s.ports.iores o = true) (rule : State → State) :
    engIter o rule s = andThen (processIfPending (rule s.armed)) fun s => .next s.endIteration := by
  simp [engIter, hr, ha, processIfPending, State.armed]

theorem engIter_of_stopped {s : State} {o : WaitOutcome} (hr : s.running = false) (rule : State → State) :
    engIter o rule s = .next (s.raise .notRunning) := by simp [engIter, hr]

/-- Every way an iteration can answer a next state. -/
theorem engIter_eq_next {s t : State} {o : WaitOutcome} {rule : State → State} (h : engIter o rule s = .next t) :
    (s.running = false ∧ t = s.raise .notRunning) ∨
      (s.running = true ∧ admissible s s.ports.iores o = false ∧ t = s.raise .illegalCommand) ∨
      (s.running = true ∧ admissible s s.ports.iores o = true ∧
        ∃ u, processIfPending (rule s.armed) = .next u ∧ t = u.endIteration) := by
  cases hr : s.running
  · exact .inl ⟨rfl, by simpa [engIter_of_stopped hr] using h.symm⟩
  · cases ha : admissible s s.ports.iores o
    · exact .inr (.inl ⟨rfl, rfl, by simpa [engIter_of_inadmissible hr ha] using h.symm⟩)
    · rw [engIter_of_admissible hr ha] at h
      obtain ⟨u, hu, hk⟩ := andThen_eq_next h
      exact .inr (.inr ⟨rfl, rfl, u, hu, by simpa using hk.symm⟩)

theorem processIfPending_of_idle {s : State} (h : s.intent.processPending = false) : processIfPending s = .next s := by
  simp [processIfPending, h]

theorem processIfPending_of_stopped {s : State} (h : s.running = false) : processIfPending s = .next s := by
  simp [processIfPending, h]

theorem processIfPending_of_pending {s : State} (hr : s.running = true) (h : s.intent.processPending = true) :
    processIfPending s = process s := by simp [processIfPending, hr, h]

end Sys2Proof.Machine
end

