-- ==== Sys2Proof/Laws/Codec.lean ====
section
/-!
SUPPORT. The codec: what the serializer writes, what one offset of the scan answers, and what the scan answers as a whole.
-/

namespace Sys2Proof.Machine

/-! ### The serializer -/

theorem serialize_length (p : Params) (cmd : Byte) (dest src : Addr) (rd : Option Reading) :
    (serialize p cmd dest src rd).length = if rd.isSome then 23 else 14 := by
  cases rd <;> rfl

theorem serialize_ne_nil (p : Params) (cmd : Byte) (dest src : Addr) (rd : Option Reading) :
    serialize p cmd dest src rd ≠ [] := by
  cases rd <;> simp [serialize, sealed]

theorem contentBody_length (cmd : Byte) (dest src : Addr) (rd : Option Reading) :
    (contentBody cmd dest src rd).length = if rd.isSome then 18 else 9 := by
  cases rd <;> rfl

/-- The header in front of the content and its checksum (R240). -/
theorem serialize_eq (p : Params) (cmd : Byte) (dest src : Addr) (rd : Option Reading) :
    serialize p cmd dest src rd =
      p.pre0 :: p.pre1 :: (if rd.isSome then 19 else 10) ::
        checksum p [p.pre0, p.pre1, if rd.isSome then 19 else 10] ::
        (contentBody cmd dest src rd ++ [checksum p (contentBody cmd dest src rd)]) := by
  cases rd <;> rfl

/-! ### One offset of the scan -/

/-- Fewer than four bytes are outside the scan window (R253). -/
theorem checkOffset_of_short {p : Params} {i : Nat} {v : List Byte} (h : v.length < 4) :
    checkOffset p i v = some (.fail .none) := by
  match v, h with
  | [], _ => rfl
  | [_], _ => rfl
  | [_, _], _ => rfl
  | [_, _, _], _ => rfl
  | _ :: _ :: _ :: _ :: v, h => simp at h; omega

/-- A scan that is too short for a header finds none (R253). -/
theorem scanFrom_of_short {p : Params} {v : List Byte} (h : v.length < 4) (i : Nat) :
    scanFrom p i v = .fail .none := by
  cases v with
  | nil => rfl
  | cons b v => simp [scanFrom, checkOffset_of_short h]

/-- A header mismatch costs one byte (R254). -/
theorem scanFrom_of_mismatch {p : Params} {i : Nat} {b : Byte} {v : List Byte}
    (h : checkOffset p i (b :: v) = none) : scanFrom p i (b :: v) = scanFrom p (i + 1) v := by
  simp [scanFrom, h]

/-- The first offset that answers ends the scan (R253). -/
theorem scanFrom_of_answer {p : Params} {i : Nat} {b : Byte} {v : List Byte} {r : DecodeResult}
    (h : checkOffset p i (b :: v) = some r) : scanFrom p i (b :: v) = r := by
  simp [scanFrom, h]

/-- The preamble and the header checksum stand at the front of these bytes (R253, R254). -/
def headerMatches (p : Params) (v : List Byte) : Prop :=
  4 ≤ v.length ∧ byteAt v 0 = p.pre0 ∧ byteAt v 1 = p.pre1 ∧ checksum p (v.take 3) = byteAt v 3

theorem checkOffset_of_match {p : Params} {i : Nat} {v : List Byte} (h : headerMatches p v) :
    checkOffset p i v = some (checkContent p i (byteAt v 2) (byteAt v 3) (v.drop 4)) := by
  obtain ⟨hl, h0, h1, hc⟩ := h
  match v, hl with
  | b0 :: b1 :: n :: c :: after, _ =>
    simp only [byteAt, List.getD_cons_zero, List.getD_cons_succ, List.take_succ_cons, List.take_zero] at h0 h1 hc
    subst h0 h1 hc
    simp [checkOffset, byteAt]

theorem checkOffset_of_no_match {p : Params} {i : Nat} {v : List Byte} (hl : 4 ≤ v.length)
    (h : ¬ headerMatches p v) : checkOffset p i v = none := by
  match v, hl with
  | b0 :: b1 :: n :: c :: after, _ =>
    have : ¬ (b0 = p.pre0 ∧ b1 = p.pre1 ∧ checksum p [b0, b1, n] = c) := fun hh => h ⟨by simp, hh⟩
    simp [checkOffset, this]

/-- The scan from offset `i` finds no header before the bytes run out, or ends at the first one that matches (R252). -/
theorem scanFrom_cases (p : Params) (v : List Byte) (i : Nat) :
    ((∀ k, ¬ headerMatches p (v.drop k)) ∧ scanFrom p i v = .fail .none) ∨
      ∃ k, headerMatches p (v.drop k) ∧ (∀ j, j < k → ¬ headerMatches p (v.drop j)) ∧
        scanFrom p i v =
          checkContent p (i + k) (byteAt (v.drop k) 2) (byteAt (v.drop k) 3) (v.drop (k + 4)) := by
  induction v generalizing i with
  | nil => exact .inl ⟨fun k h => by simp [headerMatches] at h, rfl⟩
  | cons b v ih =>
    by_cases hm : headerMatches p (b :: v)
    · refine .inr ⟨0, hm, fun j hj => absurd hj (Nat.not_lt_zero j), ?_⟩
      rw [scanFrom_of_answer (checkOffset_of_match hm)]
      rfl
    · by_cases hl : 4 ≤ (b :: v).length
      · rw [scanFrom_of_mismatch (checkOffset_of_no_match hl hm)]
        rcases ih (i + 1) with ⟨hn, he⟩ | ⟨k, hk, hb, he⟩
        · refine .inl ⟨fun k => ?_, he⟩
          cases k with
          | zero => exact hm
          | succ k => exact hn k
        · refine .inr ⟨k + 1, hk, fun j hj => ?_, ?_⟩
          · cases j with
            | zero => exact hm
            | succ j => exact hb j (by omega)
          · rw [he, Nat.add_assoc, Nat.add_comm 1 k]
            rfl
      · refine .inl ⟨fun k hk => ?_, scanFrom_of_short (by omega) i⟩
        have := hk.1
        simp only [List.length_drop] at this
        omega

/-! ### What follows a validated header -/

/-- Every way the content check can end (R255, R256, R257). -/
theorem checkContent_cases (p : Params) (i : Nat) (n h : Byte) (after : List Byte) :
    (n ≠ 10 ∧ n ≠ 19 ∧ checkContent p i n h after = .fail .badContent) ∨
      ((n = 10 ∨ n = 19) ∧ after.length < n.toNat ∧ checkContent p i n h after = .fail .none) ∨
      ((n = 10 ∨ n = 19) ∧ n.toNat ≤ after.length ∧
        checksum p (after.take (n.toNat - 1)) ≠ byteAt after (n.toNat - 1) ∧
        checkContent p i n h after = .fail .badContent) ∨
      ((n = 10 ∨ n = 19) ∧ n.toNat ≤ after.length ∧
        checksum p (after.take (n.toNat - 1)) = byteAt after (n.toNat - 1) ∧
        checkContent p i n h after = .ok (parsePacket i n h (after.take n.toNat))) := by
  by_cases hn : n = 10 ∨ n = 19
  · have hne : ¬ (n ≠ Config.clCtrl ∧ n ≠ Config.clData) := by
      rcases hn with rfl | rfl <;> decide
    have hpos : 1 ≤ n.toNat := by rcases hn with rfl | rfl <;> decide
    by_cases hl : after.length < n.toNat
    · exact .inr (.inl ⟨hn, hl, by simp [checkContent, hne, hl]⟩)
    · have ht : (after.take n.toNat).take (n.toNat - 1) = after.take (n.toNat - 1) := by
        rw [List.take_take, Nat.min_eq_left (Nat.sub_le _ _)]
      have hb : byteAt (after.take n.toNat) (n.toNat - 1) = byteAt after (n.toNat - 1) := by
        simp only [byteAt, List.getD_eq_getElem?_getD, List.getElem?_take]
        rw [if_pos (by omega)]
      by_cases hc : checksum p (after.take (n.toNat - 1)) = byteAt after (n.toNat - 1)
      · exact .inr (.inr (.inr ⟨hn, by omega, hc, by simp [checkContent, hne, hl, ht, hb, hc]⟩))
      · exact .inr (.inr (.inl ⟨hn, by omega, hc, by simp [checkContent, hne, hl, ht, hb, hc]⟩))
  · have h2 : n ≠ 10 ∧ n ≠ 19 := not_or.mp hn
    have hne : n ≠ Config.clCtrl ∧ n ≠ Config.clData := h2
    exact .inl ⟨h2.1, h2.2, by simp [checkContent, hne]⟩

/-- What a decode that finds a packet has checked: a matching header at its offset, a legal length, the content inside the
buffer with a matching checksum, and the packet the bytes spell (R252, R258, R261). -/
theorem decodeBytes_eq_ok {p : Params} {v : List Byte} {pkt : Packet} (h : decodeBytes p v = .ok pkt) :
    ∃ k n, headerMatches p (v.drop k) ∧ n = byteAt (v.drop k) 2 ∧ (n = 10 ∨ n = 19) ∧
      n.toNat ≤ (v.drop (k + 4)).length ∧
      checksum p ((v.drop (k + 4)).take (n.toNat - 1)) = byteAt (v.drop (k + 4)) (n.toNat - 1) ∧
      pkt = parsePacket k n (byteAt (v.drop k) 3) ((v.drop (k + 4)).take n.toNat) := by
  rcases scanFrom_cases p v 0 with ⟨_, he⟩ | ⟨k, hk, _, he⟩
  · rw [decodeBytes, he] at h
    cases h
  · rw [decodeBytes, he, Nat.zero_add] at h
    rcases checkContent_cases p k (byteAt (v.drop k) 2) (byteAt (v.drop k) 3) (v.drop (k + 4)) with
      ⟨_, _, hc⟩ | ⟨_, _, hc⟩ | ⟨_, _, _, hc⟩ | ⟨hn, hl, hs, hc⟩
    · rw [hc] at h; cases h
    · rw [hc] at h; cases h
    · rw [hc] at h; cases h
    · rw [hc] at h
      exact ⟨k, _, hk, rfl, hn, hl, hs, (DecodeResult.ok.inj h).symm⟩

/-- A packet with data content carries a reading (R251), and its content lies inside the buffer. -/
theorem decodeBytes_data {p : Params} {v : List Byte} {pkt : Packet} (h : decodeBytes p v = .ok pkt)
    (hd : pkt.contentLength = Config.clData) :
    (∃ rd, pkt.reading = some rd) ∧ pkt.offset + 23 ≤ v.length := by
  obtain ⟨k, n, hk, _, _, hl, _, rfl⟩ := decodeBytes_eq_ok h
  have hn : n = Config.clData := hd
  subst hn
  refine ⟨⟨_, by simp only [parsePacket, if_pos]; rfl⟩, ?_⟩
  have h4 := hk.1
  simp only [List.length_drop] at hl h4
  simp only [parsePacket]
  have : (Config.clData).toNat = 19 := rfl
  omega

end Sys2Proof.Machine
end

