-- ==== Sys2Proof/Laws/Registry.lean ====
section
/-!
SUPPORT. The registry: what each operation body finds or changes, and that each keeps the registry's invariants (R48).
-/

namespace Sys2Proof.Machine

open Sys2Proof.Safety

/-! ### Lookup -/

theorem findRecord_some {reg : List SensorRecord} {a : Addr} {r : SensorRecord} (h : findRecord reg a = some r) :
    r ∈ reg ∧ r.address = a := by
  have := List.find?_some h
  exact ⟨List.mem_of_find?_eq_some h, by simpa using this⟩

theorem findRecord_eq_none {reg : List SensorRecord} {a : Addr} :
    findRecord reg a = none ↔ ∀ r ∈ reg, r.address ≠ a := by
  simp [findRecord]

/-- Two records of one address are one record (R48). -/
theorem eq_of_same_address {reg : List SensorRecord} (h : (reg.map (·.address)).Nodup) {r q : SensorRecord}
    (hr : r ∈ reg) (hq : q ∈ reg) (ha : r.address = q.address) : r = q :=
  List.inj_on_of_nodup_map h hr hq ha

theorem findRecord_eq_some {reg : List SensorRecord} (h : (reg.map (·.address)).Nodup) {r : SensorRecord}
    (hr : r ∈ reg) : findRecord reg r.address = some r := by
  cases hf : findRecord reg r.address with
  | none => exact absurd rfl (findRecord_eq_none.mp hf r hr)
  | some q =>
    obtain ⟨hq, ha⟩ := findRecord_some hf
    rw [eq_of_same_address h hq hr ha]

/-! ### Earliest-due and offline selection -/

/-- `findEarliest` picks a record no other is polled before (R305). -/
theorem findEarliest_spec {reg : List SensorRecord} {r : SensorRecord} (h : findEarliest reg = some r) :
    r ∈ reg ∧ ∀ q ∈ reg, r.lastRequestTime < q.lastRequestTime ∨
      (r.lastRequestTime = q.lastRequestTime ∧ q.seq ≤ r.seq) := by
  induction reg generalizing r with
  | nil => cases h
  | cons x reg ih =>
    simp only [findEarliest] at h
    cases hf : findEarliest reg with
    | none =>
      cases reg with
      | nil => simp only [hf, Option.some.injEq] at h; subst h; simp
      | cons y reg =>
        simp only [findEarliest] at hf
        split at hf
        · cases hf
        · split at hf <;> cases hf
    | some q =>
      obtain ⟨hq, hmin⟩ := ih hf
      rw [hf] at h
      simp only [duerThan, decide_eq_true_eq] at h
      split at h <;> cases h
      · rename_i hd
        refine ⟨List.mem_cons_of_mem _ hq, fun z hz => ?_⟩
        rcases List.mem_cons.mp hz with rfl | hz
        · rcases hd with hd | ⟨hd, hs⟩
          · exact .inl hd
          · exact .inr ⟨hd, BitVec.le_of_lt hs⟩
        · exact hmin z hz
      · rename_i hd
        refine ⟨List.mem_cons_self, fun z hz => ?_⟩
        rcases List.mem_cons.mp hz with rfl | hz
        · exact .inr ⟨rfl, BitVec.le_refl _⟩
        · have h2 := hmin z hz
          rw [BitVec.lt_def, BitVec.lt_def] at hd
          simp only [BitVec.lt_def, BitVec.le_def, ← BitVec.toNat_inj] at h2 hd ⊢
          omega

theorem findEarliest_eq_none {reg : List SensorRecord} : findEarliest reg = none ↔ reg = [] := by
  cases reg with
  | nil => simp [findEarliest]
  | cons x reg =>
    simp only [findEarliest, reduceCtorEq, iff_false]
    split
    · simp
    · split <;> simp

theorem findOffline_some {reg : List SensorRecord} {n : Nat} {r : SensorRecord} (h : findOffline reg n = some r) :
    r ∈ reg ∧ n ≤ r.deficit.toNat := by
  have := List.find?_some h
  exact ⟨List.mem_of_find?_eq_some h, by simpa using this⟩

theorem findOffline_eq_none {reg : List SensorRecord} {n : Nat} :
    findOffline reg n = none ↔ ∀ r ∈ reg, ¬ n ≤ r.deficit.toNat := by
  simp [findOffline]

/-- In iteration order the first offline record is the one of largest `seq` (R300, R307). -/
theorem findOffline_newest {reg : List SensorRecord} (hs : reg.Pairwise fun r q => q.seq < r.seq) {n : Nat}
    {r : SensorRecord} (h : findOffline reg n = some r) : ∀ q ∈ reg, n ≤ q.deficit.toNat → q.seq ≤ r.seq := by
  induction reg with
  | nil => cases h
  | cons x reg ih =>
    rw [List.pairwise_cons] at hs
    intro q hq hn
    by_cases hx : n ≤ x.deficit.toNat
    · have : r = x := by simpa [findOffline, hx] using h.symm
      subst this
      rcases List.mem_cons.mp hq with rfl | hq
      · exact BitVec.le_refl _
      · exact BitVec.le_of_lt (hs.1 q hq)
    · have h2 : findOffline reg n = some r := by simpa [findOffline, hx] using h
      rcases List.mem_cons.mp hq with rfl | hq
      · exact absurd hn hx
      · exact ih hs.2 h2 q hq hn

/-! ### Changes -/

/-- A change that keeps address and sequence number. -/
def KeepsKeys (f : SensorRecord → SensorRecord) : Prop := ∀ r, (f r).address = r.address ∧ (f r).seq = r.seq

theorem keepsKeys_pollRequested (now : Time) : KeepsKeys (·.pollRequested now) := fun _ => ⟨rfl, rfl⟩

theorem keepsKeys_pollResponded (rd : Reading) : KeepsKeys (·.pollResponded rd) := fun _ => ⟨rfl, rfl⟩

theorem keepsKeys_registered : KeepsKeys SensorRecord.registered := by
  intro r
  unfold SensorRecord.registered
  split <;> exact ⟨rfl, rfl⟩

theorem mem_updateRecord {reg : List SensorRecord} {a : Addr} {f : SensorRecord → SensorRecord} {q : SensorRecord} :
    q ∈ updateRecord reg a f ↔ ∃ r ∈ reg, q = if r.address = a then f r else r := by
  simp only [updateRecord, List.mem_map]
  exact ⟨fun ⟨r, h, e⟩ => ⟨r, h, e.symm⟩, fun ⟨r, h, e⟩ => ⟨r, h, e.symm⟩⟩

@[simp] theorem updateRecord_length (reg : List SensorRecord) (a : Addr) (f : SensorRecord → SensorRecord) :
    (updateRecord reg a f).length = reg.length := by simp [updateRecord]

/-- With unique addresses, updating the record of an address changes that record only. -/
theorem updateRecord_eq_map {reg : List SensorRecord} (h : (reg.map (·.address)).Nodup) {r : SensorRecord}
    (hr : r ∈ reg) (f : SensorRecord → SensorRecord) :
    updateRecord reg r.address f = reg.map fun q => if q = r then f r else q := by
  apply List.map_congr_left
  intro q hq
  by_cases ha : q.address = r.address
  · have := eq_of_same_address h hq hr ha
    subst this
    simp
  · have : q ≠ r := fun e => ha (e ▸ rfl)
    simp [ha, this]

/-- Updating an address no record has changes nothing. -/
theorem updateRecord_of_absent {reg : List SensorRecord} {a : Addr} (h : ∀ r ∈ reg, r.address ≠ a)
    (f : SensorRecord → SensorRecord) : updateRecord reg a f = reg := by
  rw [updateRecord, ← List.map_id reg, List.map_map]
  exact List.map_congr_left fun q hq => by simp [h q hq]

theorem mem_removeRecord {reg : List SensorRecord} {a : Addr} {q : SensorRecord} :
    q ∈ removeRecord reg a ↔ q ∈ reg ∧ q.address ≠ a := by simp [removeRecord]

/-- With unique addresses, removing the record of an address removes that record only. -/
theorem removeRecord_eq_filter {reg : List SensorRecord} (h : (reg.map (·.address)).Nodup) {r : SensorRecord}
    (hr : r ∈ reg) : removeRecord reg r.address = reg.filter (· ≠ r) := by
  apply List.filter_congr
  intro q hq
  by_cases ha : q.address = r.address
  · have := eq_of_same_address h hq hr ha
    subst this
    simp
  · have : q ≠ r := fun e => ha (e ▸ rfl)
    simp [ha, this]

/-! ### The invariants are kept -/

/-- The registry's invariants on the list and the counter alone (R48). -/
abbrev RegistryOk (reg : List SensorRecord) (next : BitVec 64) : Prop :=
  reg.length ≤ Config.cap ∧ (reg.map (·.address)).Nodup ∧ reg.Pairwise (fun r q => q.seq < r.seq) ∧
    ∀ r ∈ reg, r.seq < next

theorem registryOk_update {reg : List SensorRecord} {next : BitVec 64} (h : RegistryOk reg next) (a : Addr)
    {f : SensorRecord → SensorRecord} (hf : KeepsKeys f) : RegistryOk (updateRecord reg a f) next := by
  have hk : ∀ r : SensorRecord, (if r.address = a then f r else r).address = r.address ∧
      (if r.address = a then f r else r).seq = r.seq := by
    intro r
    split
    · exact hf r
    · exact ⟨rfl, rfl⟩
  obtain ⟨h1, h2, h3, h4⟩ := h
  refine ⟨by simpa using h1, ?_, ?_, ?_⟩
  · rw [updateRecord, List.map_map]
    have : ((fun x : SensorRecord => x.address) ∘ fun r => if r.address = a then f r else r)
        = fun r => r.address := by
      funext r
      exact (hk r).1
    rw [this]
    exact h2
  · rw [updateRecord, List.pairwise_map]
    exact h3.imp fun {r q} hrq => by rw [(hk r).2, (hk q).2]; exact hrq
  · intro q hq
    obtain ⟨r, hr, rfl⟩ := mem_updateRecord.mp hq
    rw [(hk r).2]
    exact h4 r hr

theorem registryOk_remove {reg : List SensorRecord} {next : BitVec 64} (h : RegistryOk reg next) (a : Addr) :
    RegistryOk (removeRecord reg a) next := by
  obtain ⟨h1, h2, h3, h4⟩ := h
  have hs : (removeRecord reg a).Sublist reg := List.filter_sublist
  exact ⟨hs.length_le.trans h1, h2.sublist (hs.map _), h3.sublist hs, fun r hr => h4 r (hs.subset hr)⟩

/-- `NEXT_SEQ` below its last value advances without a wrap. -/
theorem lt_succ_of_ne_allOnes {n : BitVec 64} (h : n ≠ BitVec.allOnes 64) : n < n + 1 := by
  have h1 : n.toNat ≠ 2 ^ 64 - 1 := fun e => h (BitVec.eq_of_toNat_eq (by simpa using e))
  have h2 := n.isLt
  rw [BitVec.lt_def, BitVec.toNat_add]
  have : (1 : BitVec 64).toNat = 1 := rfl
  rw [this, Nat.mod_eq_of_lt (by omega)]
  omega

/-- What the checks of `add` have established when they let a record be created (R301, R302). -/
theorem addCheck_created {s : State} {a : Addr} {r : SensorRecord} (h : addCheck s a = .created r) :
    r = newRecord a s.nextSeq ∧ s.registry.length < Config.cap ∧ (∀ q ∈ s.registry, q.address ≠ a) ∧
      s.nextSeq ≠ BitVec.allOnes 64 := by
  simp only [addCheck] at h
  split at h
  · cases h
  · split at h
    · cases h
    · split at h
      · cases h
      · rename_i hf
        split at h
        · cases h
        · rename_i hc _ hn
          cases h
          exact ⟨rfl, Nat.lt_of_not_le hc, findRecord_eq_none.mp hf, hn⟩

theorem addCheck_duplicate {s : State} {a : Addr} {r : SensorRecord} (h : addCheck s a = .duplicate r) :
    r ∈ s.registry ∧ r.address = a := by
  simp only [addCheck] at h
  split at h
  · cases h
  · split at h
    · cases h
    · split at h
      · rename_i hf
        cases h
        exact findRecord_some hf
      · split at h <;> cases h

theorem registryOk_insert {s : State} {a : Addr} {r : SensorRecord} (hi : RegistryOk s.registry s.nextSeq)
    (h : addCheck s a = .created r) : RegistryOk (r :: s.registry) (s.nextSeq + 1) := by
  obtain ⟨rfl, hlen, hnew, hne⟩ := addCheck_created h
  obtain ⟨_, h2, h3, h4⟩ := hi
  have hlt := lt_succ_of_ne_allOnes hne
  refine ⟨hlen, ?_, ?_, ?_⟩
  · rw [List.map_cons, List.nodup_cons]
    refine ⟨fun hm => ?_, h2⟩
    obtain ⟨q, hq, ha⟩ := List.mem_map.mp hm
    exact hnew q hq ha
  · rw [List.pairwise_cons]
    exact ⟨fun q hq => h4 q hq, h3⟩
  · intro q hq
    rcases List.mem_cons.mp hq with rfl | hq
    · exact hlt
    · exact BitVec.lt_trans (h4 q hq) hlt

end Sys2Proof.Machine
end

