-- ==== Sys2Proof/Laws/Effects.lean ====
section
/-!
SUPPORT. Once for all instructions: everything a command can do when it answers a next state, and everything a step can do.
Later proofs split on these cases and do not unfold the meanings again.
-/

namespace Sys2Proof.Machine

open Sys2Proof.Safety

/-- What a command that is no loop iteration can do to the state, apart from the result ports. -/
inductive HostEffect (s : State) : State → Prop where
  | keep : HostEffect s s
  | write (b : BufIdx) (v : List Byte) (hr : s.running = false) (hv : v.length ≤ s.params.bufCap ∨ v = []) :
      HostEffect s (s.setBuf b v)
  | duplicate (a : Addr) (hr : s.running = false) : HostEffect s (s.addLog (.duplicateReg a))
  | create (a : Addr) (r : SensorRecord) (hr : s.running = false) (h : addCheck s a = .created r) :
      HostEffect s (s.insertRecord r)
  | remove (a : Addr) (hr : s.running = false) : HostEffect s (s.removeRecord a)
  | pollReq (a : Addr) (now : Time) (hr : s.running = false) : HostEffect s (s.updateRecord a (·.pollRequested now))
  | pollRsp (a : Addr) (rd : Reading) (r : SensorRecord) (hr : s.running = false)
      (hf : findRecord s.registry a = some r) (hs : r.state = .pollRequested) :
      HostEffect s (s.updateRecord a (·.pollResponded rd))
  | start (hr : s.running = false) (hc : s.configured = true) : HostEffect s s.started
  | stop (hr : s.running = true) : HostEffect s { s with ctrlPending := true }
  | cfg (n : CrNum) (v : BitVec 32) (hr : s.running = false)
      (hl : n = .cr1 → userIdLegal (v.extractLsb' 0 8) = true) : HostEffect s (s.writeCr n v)

/-- The `ENG_ITER` command of a wait outcome (R145). -/
def iterOf : WaitOutcome → Instr
  | .hardErr => .engIterHarderr
  | .intr => .engIterIntr
  | .timeout => .engIterTimeout
  | .ctrl => .engIterCtrl
  | .rxRdy => .engIterRxrdy
  | .txRdy => .engIterTxrdy
  | .udpRdy => .engIterUdprdy

/-- The rule of a wait outcome, with the operands the command came with (R371..R377). -/
def ruleOf (s : State) : WaitOutcome → State → State
  | .hardErr => (·.fatal .io)
  | .intr => id
  | .timeout => (·.tick s.ports.now)
  | .ctrl => State.gracefulStop
  | .rxRdy => (·.radioRead s.ports.iores)
  | .txRdy => (·.radioWrite s.ports.iores)
  | .udpRdy => (·.udpSend s.ports.iores)

theorem exec_iterOf (o : WaitOutcome) (s : State) : exec (iterOf o) s = engIter o (ruleOf s o) s := by
  cases o <;> rfl

/-- One loop iteration of outcome `o` that ran took the state to `t`. -/
def Iterated (s : State) (o : WaitOutcome) (t : State) : Prop :=
  s.running = true ∧ admissible s s.ports.iores o = true ∧
    ∃ u, processIfPending (ruleOf s o s.armed) = .next u ∧ t = u.endIteration

theorem keep_of_finish {s t : State} (r : ResultPorts) (h : t = s.finish r) :
    ∃ u, HostEffect s u ∧ t = u.finish t.result := ⟨s, .keep, by rw [h]; rfl⟩

theorem finish_self {u t : State} {r : ResultPorts} (h : t = u.finish r) : t = u.finish t.result := by
  rw [h]; rfl

theorem encodeInto_effect {s t : State} {b : BufIdx} {cmd : Byte} {rd : Option Reading}
    (h : encodeInto s b cmd rd = .next t) : ∃ u, HostEffect s u ∧ t = u.finish t.result := by
  rcases whenStopped_eq_next h with ⟨_, h⟩ | ⟨hr, h⟩
  · exact keep_of_finish _ h
  · rcases hostBufWrite_eq_next h with ⟨hv, h⟩ | ⟨_, h⟩
    · exact ⟨_, .write b _ hr (.inl hv), finish_self h⟩
    · exact keep_of_finish _ h

theorem execBufAppend_effect {s t : State} {b : BufIdx} (h : execBufAppend b s = .next t) :
    ∃ u, HostEffect s u ∧ t = u.finish t.result := by
  rcases whenStopped_eq_next h with ⟨_, h⟩ | ⟨hr, h⟩
  · exact keep_of_finish _ h
  · rcases hostBufWrite_eq_next h with ⟨hv, h⟩ | ⟨_, h⟩
    · exact ⟨_, .write b _ hr (.inl hv), finish_self h⟩
    · exact keep_of_finish _ h

theorem execBufReset_effect {s t : State} {b : BufIdx} (h : execBufReset b s = .next t) :
    ∃ u, HostEffect s u ∧ t = u.finish t.result := by
  rcases whenStopped_eq_next h with ⟨_, h⟩ | ⟨hr, h⟩
  · exact keep_of_finish _ h
  · exact ⟨_, .write b [] hr (.inr rfl), finish_self (Host.Outcome.next.inj h).symm⟩

theorem execRegAdd_effect {s t : State} (h : execRegAdd s = .next t) :
    ∃ u, HostEffect s u ∧ t = u.finish t.result := by
  rcases whenStopped_eq_next h with ⟨_, h⟩ | ⟨hr, h⟩
  · exact keep_of_finish _ h
  · cases hc : addCheck s s.ports.a with
    | rangeError => rw [hc] at h; exact keep_of_finish _ (Host.Outcome.next.inj h).symm
    | capacityExceeded => rw [hc] at h; exact keep_of_finish _ (Host.Outcome.next.inj h).symm
    | seqExhausted => rw [hc] at h; cases h
    | duplicate r => rw [hc] at h; exact ⟨_, .duplicate _ hr, finish_self (Host.Outcome.next.inj h).symm⟩
    | created r => rw [hc] at h; exact ⟨_, .create _ r hr hc, finish_self (Host.Outcome.next.inj h).symm⟩

theorem execRegRemove_effect {s t : State} (h : execRegRemove s = .next t) :
    ∃ u, HostEffect s u ∧ t = u.finish t.result := by
  rcases whenStopped_eq_next h with ⟨_, h⟩ | ⟨hr, h⟩
  · exact keep_of_finish _ h
  · cases hf : findRecord s.registry s.ports.a with
    | none => rw [hf] at h; exact keep_of_finish _ (Host.Outcome.next.inj h).symm
    | some r => rw [hf] at h; exact ⟨_, .remove _ hr, finish_self (Host.Outcome.next.inj h).symm⟩

theorem execRegPollreq_effect {s t : State} (h : execRegPollreq s = .next t) :
    ∃ u, HostEffect s u ∧ t = u.finish t.result := by
  rcases whenStopped_eq_next h with ⟨_, h⟩ | ⟨hr, h⟩
  · exact keep_of_finish _ h
  · cases hf : findRecord s.registry s.ports.a with
    | none => rw [hf] at h; exact keep_of_finish _ (Host.Outcome.next.inj h).symm
    | some r => rw [hf] at h; exact ⟨_, .pollReq _ _ hr, finish_self (Host.Outcome.next.inj h).symm⟩

theorem execRegPollrsp_effect {s t : State} (h : execRegPollrsp s = .next t) :
    ∃ u, HostEffect s u ∧ t = u.finish t.result := by
  rcases whenStopped_eq_next h with ⟨_, h⟩ | ⟨hr, h⟩
  · exact keep_of_finish _ h
  · cases hf : findRecord s.registry s.ports.a with
    | none => rw [hf] at h; exact keep_of_finish _ (Host.Outcome.next.inj h).symm
    | some r =>
      simp only [hf] at h
      split at h
      · rename_i hs
        exact ⟨_, .pollRsp _ _ r hr hf hs, finish_self (Host.Outcome.next.inj h).symm⟩
      · exact keep_of_finish _ (Host.Outcome.next.inj h).symm

theorem execEngStart_effect {s t : State} (h : execEngStart s = .next t) :
    ∃ u, HostEffect s u ∧ t = u.finish t.result := by
  rcases whenStopped_eq_next h with ⟨_, h⟩ | ⟨hr, h⟩
  · exact keep_of_finish _ h
  · split at h
    · rename_i hc
      exact ⟨_, .start hr hc, finish_self (Host.Outcome.next.inj h).symm⟩
    · exact keep_of_finish _ (Host.Outcome.next.inj h).symm

theorem execEngStop_effect {s t : State} (h : execEngStop s = .next t) :
    ∃ u, HostEffect s u ∧ t = u.finish t.result := by
  cases hr : s.running
  · rw [execEngStop, whenRunning_of_stopped hr] at h
    exact keep_of_finish _ (Host.Outcome.next.inj h).symm
  · rw [execEngStop, whenRunning_of_running hr] at h
    exact ⟨_, .stop hr, finish_self (Host.Outcome.next.inj h).symm⟩

theorem execCfgRead_effect {n : CrNum} {s t : State} (h : execCfgRead n s = .next t) :
    ∃ u, HostEffect s u ∧ t = u.finish t.result := by
  simp only [execCfgRead] at h
  split at h <;> exact keep_of_finish _ (Host.Outcome.next.inj h).symm

theorem execCfgWrite_effect {n : CrNum} {s t : State} (h : execCfgWrite n s = .next t) :
    ∃ u, HostEffect s u ∧ t = u.finish t.result := by
  simp only [execCfgWrite] at h
  split at h
  · rcases whenStopped_eq_next h with ⟨_, h⟩ | ⟨hr, h⟩
    · exact keep_of_finish _ h
    · split at h
      · exact keep_of_finish _ (Host.Outcome.next.inj h).symm
      · rename_i hl
        refine ⟨_, .cfg n s.ports.val hr fun hn => ?_, finish_self (Host.Outcome.next.inj h).symm⟩
        simpa [hn] using hl
  · exact keep_of_finish _ (Host.Outcome.next.inj h).symm

theorem execCksum_effect {b : BufIdx} {s t : State} (h : execCksum b s = .next t) :
    ∃ u, HostEffect s u ∧ t = u.finish t.result := by
  simp only [execCksum] at h
  split at h <;> exact keep_of_finish _ (Host.Outcome.next.inj h).symm

theorem exec_iterOf_effect {o : WaitOutcome} {s t : State} (h : exec (iterOf o) s = .next t) :
    (∃ u, HostEffect s u ∧ t = u.finish t.result) ∨ Iterated s o t := by
  rw [exec_iterOf] at h
  rcases engIter_eq_next h with ⟨_, h⟩ | ⟨_, _, h⟩ | ⟨hr, ha, h⟩
  · exact .inl (keep_of_finish _ h)
  · exact .inl (keep_of_finish _ h)
  · exact .inr ⟨hr, ha, h⟩

/-- Everything a command can do when it answers a next state. -/
theorem exec_cases {i : Instr} {s t : State} (h : exec i s = .next t) :
    (∃ u, HostEffect s u ∧ t = u.finish t.result) ∨ ∃ o, i = iterOf o ∧ Iterated s o t := by
  have iter : ∀ o, i = iterOf o →
      (∃ u, HostEffect s u ∧ t = u.finish t.result) ∨ ∃ o, i = iterOf o ∧ Iterated s o t := by
    intro o ho
    subst ho
    rcases exec_iterOf_effect h with h | h
    · exact .inl h
    · exact .inr ⟨o, rfl, h⟩
  cases i with
  | cksum b => exact .inl (execCksum_effect h)
  | bufAppend b => exact .inl (execBufAppend_effect h)
  | bufReset b => exact .inl (execBufReset_effect h)
  | bufLen b => exact .inl (keep_of_finish _ (Host.Outcome.next.inj h).symm)
  | bufRead b => exact .inl (keep_of_finish _ (Host.Outcome.next.inj h).symm)
  | encRreq b => exact .inl (encodeInto_effect h)
  | encRrsp b => exact .inl (encodeInto_effect h)
  | encDreq b => exact .inl (encodeInto_effect h)
  | encDrsp b => exact .inl (encodeInto_effect h)
  | decode b => exact .inl (keep_of_finish _ (Host.Outcome.next.inj h).symm)
  | regFind => exact .inl (keep_of_finish _ (Host.Outcome.next.inj h).symm)
  | regAdd => exact .inl (execRegAdd_effect h)
  | regRemove => exact .inl (execRegRemove_effect h)
  | regEarliest => exact .inl (keep_of_finish _ (Host.Outcome.next.inj h).symm)
  | regOffline => exact .inl (keep_of_finish _ (Host.Outcome.next.inj h).symm)
  | regPollreq => exact .inl (execRegPollreq_effect h)
  | regPollrsp => exact .inl (execRegPollrsp_effect h)
  | regSize => exact .inl (keep_of_finish _ (Host.Outcome.next.inj h).symm)
  | regList => exact .inl (keep_of_finish _ (Host.Outcome.next.inj h).symm)
  | engStart => exact .inl (execEngStart_effect h)
  | engStop => exact .inl (execEngStop_effect h)
  | cfgRead n => exact .inl (execCfgRead_effect h)
  | cfgWrite n => exact .inl (execCfgWrite_effect h)
  | engIterHarderr => exact iter .hardErr rfl
  | engIterIntr => exact iter .intr rfl
  | engIterTimeout => exact iter .timeout rfl
  | engIterCtrl => exact iter .ctrl rfl
  | engIterRxrdy => exact iter .rxRdy rfl
  | engIterTxrdy => exact iter .txRdy rfl
  | engIterUdprdy => exact iter .udpRdy rfl

/-! ### The rules of the outcomes -/

/-- What the rule of a wait outcome can do (R371..R377). -/
inductive RuleEffect (s : State) : State → Prop where
  | keep : RuleEffect s s
  | fatal (c : FatalCause) : RuleEffect s (s.fatal c)
  | graceful (hc : s.ctrlPending = true) : RuleEffect s s.gracefulStop
  | tick (now : Time) : RuleEffect s (s.tick now)
  | read (v : List Byte) (hi : s.intent.wantReadRadio = true) (hv : (s.bufs.rrb ++ v).length ≤ s.params.bufCap) :
      RuleEffect s { s.setBuf .rrb (s.bufs.rrb ++ v) with intent := .processing }
  | sent (hi : s.intent.wantWriteRadio = true) :
      RuleEffect s { s.setBuf .rwb [] with radioTx := s.radioTx ++ [s.bufs.rwb], intent := .readRadio }
  | udpSent (hi : s.intent.wantWriteUdp = true) :
      RuleEffect s { s.setBuf .uwb [] with
        udpTx := s.udpTx ++ [⟨s.sServerIp, s.sServerPort, s.bufs.uwb⟩], intent := .readRadio }

theorem ruleOf_effect {s : State} {o : WaitOutcome} (ha : admissible s s.ports.iores o = true) :
    RuleEffect s.armed (ruleOf s o s.armed) := by
  cases o with
  | hardErr => exact .fatal .io
  | intr => exact .keep
  | timeout => exact .tick _
  | ctrl => exact .graceful ha
  | rxRdy =>
    simp only [admissible, Bool.and_eq_true] at ha
    obtain ⟨⟨_, hi⟩, hf⟩ := ha
    simp only [ruleOf]
    cases hio : s.ports.iores with
    | bytes v =>
      simp only [hio, readResultFits, decide_eq_true_eq] at hf
      have hfit : (s.armed.bufs.rrb ++ v).length ≤ s.armed.params.bufCap := by
        simp only [List.length_append, State.armed]
        omega
      simp only [State.radioRead, State.ctlBufWrite_of_fits hfit]
      exact .read v hi hfit
    | eof => exact .fatal .io
    | ok => exact .keep
    | wouldBlock => exact .keep
    | error => exact .fatal .io
  | txRdy =>
    simp only [admissible, Bool.and_eq_true] at ha
    simp only [ruleOf]
    cases s.ports.iores with
    | bytes v => exact .keep
    | eof => exact .keep
    | ok => exact .sent ha.1.2
    | wouldBlock => exact .keep
    | error => exact .fatal .io
  | udpRdy =>
    simp only [admissible, Bool.and_eq_true] at ha
    simp only [ruleOf]
    cases s.ports.iores with
    | bytes v => exact .keep
    | eof => exact .keep
    | ok => exact .udpSent ha.1.2
    | wouldBlock => exact .keep
    | error => exact .fatal .io

/-! ### The scheduling tick -/

theorem State.evictOffline_cases (s : State) :
    (findOffline s.registry (threshold s.params) = none ∧ s.evictOffline = s) ∨
      ∃ o, findOffline s.registry (threshold s.params) = some o ∧
        s.evictOffline = (s.addLog (.evict o.address)).removeRecord o.address := by
  unfold State.evictOffline
  cases h : findOffline s.registry (threshold s.params) with
  | none => exact .inl ⟨rfl, rfl⟩
  | some o => exact .inr ⟨o, rfl, rfl⟩

theorem State.pollEarliest_cases (s : State) (now : Time) :
    (s.registry = [] ∧ s.pollEarliest now = s) ∨
      ∃ e, findEarliest s.registry = some e ∧
        ((14 ≤ s.params.bufCap ∧ s.pollEarliest now =
            { (s.updateRecord e.address (·.pollRequested now)).setBuf .rwb
                (serialize s.params s.params.cmdDreq e.address s.sLocal none) with intent := .writeRadio }) ∨
          (s.params.bufCap < 14 ∧
            s.pollEarliest now = (s.updateRecord e.address (·.pollRequested now)).fatal .alloc)) := by
  cases h : findEarliest s.registry with
  | none => exact .inl ⟨findEarliest_eq_none.mp h, by simp [State.pollEarliest, h]⟩
  | some e =>
    refine .inr ⟨e, rfl, ?_⟩
    simp only [State.pollEarliest, h]
    rcases State.ctlBufWrite_cases (s.updateRecord e.address (·.pollRequested now)) .rwb
      (serialize s.params s.params.cmdDreq e.address s.sLocal none) (fun s => { s with intent := .writeRadio })
      with ⟨hv, he⟩ | ⟨hv, he⟩
    · exact .inl ⟨by simpa [serialize_length] using hv, he⟩
    · exact .inr ⟨by simpa [serialize_length] using hv, he⟩

/-! ### Receive processing -/

/-- What `process()` can do before it clears the radio-read buffer (R390..R393). -/
inductive ProcessEffect (s : State) : State → Prop where
  | dropped (e : LogEntry) : ProcessEffect s (s.dropWith e)
  | duplicate (src : Addr) (r : SensorRecord) (h : addCheck s src = .duplicate r) :
      ProcessEffect s ((s.addLog (.duplicateReg src)).stageRegisterResponse src)
  | created (src : Addr) (r : SensorRecord) (h : addCheck s src = .created r) :
      ProcessEffect s ((s.insertRecord r).stageRegisterResponse src)
  | response (pkt : Packet) (rd : Reading) (r : SensorRecord) (hd : decodeBytes s.params s.bufs.rrb = .ok pkt)
      (hc : pkt.command = s.params.cmdDrsp) (ht : pkt.dest = s.sLocal) (hl : pkt.contentLength = Config.clData)
      (hrd : pkt.reading = some rd) (hf : findRecord s.registry pkt.src = some r) (hs : r.state = .pollRequested) :
      ProcessEffect s (s.stageDatagram pkt rd)

theorem dispatchDataResponse_effect {s : State} {pkt : Packet} (hd : decodeBytes s.params s.bufs.rrb = .ok pkt)
    (hc : pkt.command = s.params.cmdDrsp) : ProcessEffect s (dispatchDataResponse pkt s) := by
  unfold dispatchDataResponse
  split
  · exact .dropped _
  · rename_i ht
    split
    · exact .dropped _
    · rename_i hl
      split
      · exact .dropped _
      · rename_i rd hrd
        split
        · exact .dropped _
        · rename_i r hf
          split
          · rename_i hs
            exact .response pkt rd r hd hc (not_not.mp ht) (not_not.mp hl) hrd hf hs
          · exact .dropped _

theorem dispatchRegisterRequest_effect {s u : State} {pkt : Packet}
    (h : dispatchRegisterRequest pkt s = .next u) : ProcessEffect s u := by
  unfold dispatchRegisterRequest at h
  split at h
  · cases h; exact .dropped _
  · split at h
    · cases h; exact .dropped _
    · cases h; exact .dropped _
    · cases h
    · rename_i r hr
      cases h
      exact .duplicate _ r hr
    · rename_i r hr
      cases h
      exact .created _ r hr

theorem process_effect {s t : State} (h : process s = .next t) : ∃ u, ProcessEffect s u ∧ t = u.endProcess := by
  unfold process at h
  split at h
  · rename_i pkt hd
    obtain ⟨u, hu, he⟩ := andThen_eq_next h
    refine ⟨u, ?_, (Host.Outcome.next.inj he).symm⟩
    unfold dispatch at hu
    split at hu
    · exact dispatchRegisterRequest_effect hu
    · split at hu
      · rename_i hc
        cases hu
        exact dispatchDataResponse_effect hd hc
      · cases hu
        exact .dropped _
  · exact ⟨_, .dropped _, (Host.Outcome.next.inj h).symm⟩

/-- An iteration that ran: the outcome's rule, then processing where it left `processPending` set (R364, R378). -/
theorem Iterated.cases {s t : State} {o : WaitOutcome} (h : Iterated s o t) :
    ∃ u, RuleEffect s.armed u ∧ ((u.running && u.intent.processPending) = false ∧ t = u.endIteration ∨
      u.running = true ∧ u.intent.processPending = true ∧
        ∃ v, ProcessEffect u v ∧ t = v.endProcess.endIteration) := by
  obtain ⟨_, ha, u, hu, rfl⟩ := h
  refine ⟨_, ruleOf_effect ha, ?_⟩
  unfold processIfPending at hu
  split at hu
  · rename_i hp
    rw [Bool.and_eq_true] at hp
    obtain ⟨v, hv, rfl⟩ := process_effect hu
    exact .inr ⟨hp.1, hp.2, v, hv, rfl⟩
  · rename_i hp
    cases hu
    exact .inl ⟨Bool.not_eq_true _ ▸ hp, rfl⟩

theorem State.stageRegisterResponse_cases (s : State) (src : Addr) :
    (14 ≤ s.params.bufCap ∧ s.stageRegisterResponse src =
        ((s.updateRecord src SensorRecord.registered).setBuf .rwb
          (serialize s.params s.params.cmdRrsp src s.sLocal none)).setIo .writeRadio) ∨
      (s.params.bufCap < 14 ∧
        s.stageRegisterResponse src = (s.updateRecord src SensorRecord.registered).fatal .alloc) := by
  rcases State.ctlBufWrite_cases (s.updateRecord src SensorRecord.registered) .rwb
      (serialize s.params s.params.cmdRrsp src s.sLocal none) (fun s => s.setIo .writeRadio)
      with ⟨hv, he⟩ | ⟨hv, he⟩
  · exact .inl ⟨by simpa [serialize_length] using hv, he⟩
  · exact .inr ⟨by simpa [serialize_length] using hv, he⟩

theorem State.stageDatagram_cases (s : State) (pkt : Packet) (rd : Reading) :
    ((slice s.bufs.rrb (pkt.offset + 4) 19).length ≤ s.params.bufCap ∧ s.stageDatagram pkt rd =
        ((s.updateRecord pkt.src (·.pollResponded rd)).setBuf .uwb
          (slice s.bufs.rrb (pkt.offset + 4) 19)).setIo .writeUdp) ∨
      (s.params.bufCap < (slice s.bufs.rrb (pkt.offset + 4) 19).length ∧
        s.stageDatagram pkt rd = (s.updateRecord pkt.src (·.pollResponded rd)).fatal .alloc) :=
  State.ctlBufWrite_cases (s.updateRecord pkt.src (·.pollResponded rd)) .uwb
    (slice s.bufs.rrb (pkt.offset + 4) 19) (fun s => s.setIo .writeUdp)

/-! ### The step -/

/-- Everything a step can do when it answers a next state: nothing at all, or one command's effect, after which the command
is gone. -/
theorem step_cases {s t : State} (h : step s = .next t) :
    (s.pending = [] ∧ t = s) ∨
      ∃ c rest, s.pending = c :: rest ∧
        ((∃ u, HostEffect s u ∧ t = (u.finish t.result).retire) ∨
          ∃ o u, decodeWord c.word = .ok (iterOf o) ∧ Iterated s o u ∧ t = u.retire) := by
  unfold step at h
  split at h
  · rename_i hp
    cases h
    exact .inl ⟨hp, rfl⟩
  · rename_i c rest hp
    refine .inr ⟨c, rest, hp, ?_⟩
    obtain ⟨u, hu, hk⟩ := andThen_eq_next h
    cases hk
    split at hu
    · rename_i i hd
      rcases exec_cases hu with ⟨w, hw, he⟩ | ⟨o, rfl, ho⟩
      · exact .inl ⟨w, hw, by rw [State.retire_result, ← he]⟩
      · exact .inr ⟨o, u, hd, ho, rfl⟩
    · cases hu
      exact .inl ⟨s, .keep, rfl⟩

end Sys2Proof.Machine
end

