-- ==== Sys2Proof/Laws/PerInstr.lean ====
section
/-!
SUPPORT. Statements about every instruction as syntax, one lemma per constructor: the family `TableRow` says that the word
of an instruction is a word of its row of spec/opcode_table.json.
-/

namespace Sys2Proof.Laws.TableRow

/-- The `mask` and the `match` of an instruction's row of spec/opcode_table.json. -/
def row : Instr → CmdWord × CmdWord
  | .cksum _ => (0xFF3F, 0x0100)
  | .bufAppend _ => (0xFF3F, 0x0200)
  | .bufReset _ => (0xFF3F, 0x0300)
  | .bufLen _ => (0xFF3F, 0x0400)
  | .bufRead _ => (0xFF3F, 0x0500)
  | .encRreq _ => (0xFF3F, 0x1000)
  | .encRrsp _ => (0xFF3F, 0x1100)
  | .encDreq _ => (0xFF3F, 0x1200)
  | .encDrsp _ => (0xFF3F, 0x1300)
  | .decode _ => (0xFF3F, 0x1400)
  | .regFind => (0xFFFF, 0x2000)
  | .regAdd => (0xFFFF, 0x2100)
  | .regRemove => (0xFFFF, 0x2200)
  | .regEarliest => (0xFFFF, 0x2300)
  | .regOffline => (0xFFFF, 0x2400)
  | .regPollreq => (0xFFFF, 0x2500)
  | .regPollrsp => (0xFFFF, 0x2600)
  | .regSize => (0xFFFF, 0x2700)
  | .regList => (0xFFFF, 0x2800)
  | .engStart => (0xFFFF, 0x3000)
  | .engStop => (0xFFFF, 0x3100)
  | .cfgRead _ => (0xFFF0, 0x3200)
  | .cfgWrite _ => (0xFFF0, 0x3300)
  | .engIterHarderr => (0xFFFF, 0x3400)
  | .engIterIntr => (0xFFFF, 0x3401)
  | .engIterTimeout => (0xFFFF, 0x3402)
  | .engIterCtrl => (0xFFFF, 0x3403)
  | .engIterRxrdy => (0xFFFF, 0x3404)
  | .engIterTxrdy => (0xFFFF, 0x3405)
  | .engIterUdprdy => (0xFFFF, 0x3406)

/-- The word of the instruction matches its row (R142). -/
def Statement (i : Instr) : Prop := encode i &&& (row i).1 = (row i).2

theorem cksum (b : BufIdx) : Statement (.cksum b) := by cases b <;> rfl
theorem bufAppend (b : BufIdx) : Statement (.bufAppend b) := by cases b <;> rfl
theorem bufReset (b : BufIdx) : Statement (.bufReset b) := by cases b <;> rfl
theorem bufLen (b : BufIdx) : Statement (.bufLen b) := by cases b <;> rfl
theorem bufRead (b : BufIdx) : Statement (.bufRead b) := by cases b <;> rfl
theorem encRreq (b : BufIdx) : Statement (.encRreq b) := by cases b <;> rfl
theorem encRrsp (b : BufIdx) : Statement (.encRrsp b) := by cases b <;> rfl
theorem encDreq (b : BufIdx) : Statement (.encDreq b) := by cases b <;> rfl
theorem encDrsp (b : BufIdx) : Statement (.encDrsp b) := by cases b <;> rfl
theorem decode (b : BufIdx) : Statement (.decode b) := by cases b <;> rfl
theorem regFind : Statement .regFind := rfl
theorem regAdd : Statement .regAdd := rfl
theorem regRemove : Statement .regRemove := rfl
theorem regEarliest : Statement .regEarliest := rfl
theorem regOffline : Statement .regOffline := rfl
theorem regPollreq : Statement .regPollreq := rfl
theorem regPollrsp : Statement .regPollrsp := rfl
theorem regSize : Statement .regSize := rfl
theorem regList : Statement .regList := rfl
theorem engStart : Statement .engStart := rfl
theorem engStop : Statement .engStop := rfl
theorem cfgRead (n : CrNum) : Statement (.cfgRead n) := by cases n <;> rfl
theorem cfgWrite (n : CrNum) : Statement (.cfgWrite n) := by cases n <;> rfl
theorem engIterHarderr : Statement .engIterHarderr := rfl
theorem engIterIntr : Statement .engIterIntr := rfl
theorem engIterTimeout : Statement .engIterTimeout := rfl
theorem engIterCtrl : Statement .engIterCtrl := rfl
theorem engIterRxrdy : Statement .engIterRxrdy := rfl
theorem engIterTxrdy : Statement .engIterTxrdy := rfl
theorem engIterUdprdy : Statement .engIterUdprdy := rfl

end Sys2Proof.Laws.TableRow
end

