-- ==== Sys2Proof/Laws/Preserved.lean ====
section
/-!
SUPPORT. What the effects of Laws/Effects.lean leave alone: the parameters and the command stream; for a loop iteration also
the configuration registers and the session latches; the registry's invariants; the output streams, which only grow.
-/

namespace Sys2Proof.Machine

open Sys2Proof.Safety

/-! ### The registry's invariants (R48) -/

theorem HostEffect.registryOk {s u : State} (h : HostEffect s u) (hi : RegistryOk s.registry s.nextSeq) :
    RegistryOk u.registry u.nextSeq := by
  cases h with
  | create a r _ ha => exact registryOk_insert hi ha
  | remove a _ => exact registryOk_remove hi _
  | pollReq a now _ => exact registryOk_update hi _ (keepsKeys_pollRequested now)
  | pollRsp a rd _ _ _ _ => exact registryOk_update hi _ (keepsKeys_pollResponded rd)
  | cfg n v _ _ => cases n <;> exact hi
  | _ => exact hi

theorem RuleEffect.registryOk {s u : State} (h : RuleEffect s u) (hi : RegistryOk s.registry s.nextSeq) :
    RegistryOk u.registry u.nextSeq := by
  cases h with
  | tick now =>
    have he : RegistryOk s.evictOffline.registry s.evictOffline.nextSeq := by
      rcases s.evictOffline_cases with ⟨_, e⟩ | ⟨o, _, e⟩ <;> rw [e]
      · exact hi
      · exact registryOk_remove hi _
    rcases s.evictOffline.pollEarliest_cases now with ⟨_, e⟩ | ⟨o, _, ⟨_, e⟩ | ⟨_, e⟩⟩ <;> rw [State.tick, e]
    · exact he
    all_goals exact registryOk_update he _ (keepsKeys_pollRequested now)
  | _ => exact hi

theorem State.stageRegisterResponse_registry (s : State) (src : Addr) :
    (s.stageRegisterResponse src).registry = Sys2Proof.Machine.updateRecord s.registry src SensorRecord.registered ∧
      (s.stageRegisterResponse src).nextSeq = s.nextSeq := by
  rcases s.stageRegisterResponse_cases src with ⟨_, e⟩ | ⟨_, e⟩ <;> rw [e] <;> exact ⟨rfl, rfl⟩

theorem State.stageDatagram_registry (s : State) (pkt : Packet) (rd : Reading) :
    (s.stageDatagram pkt rd).registry = Sys2Proof.Machine.updateRecord s.registry pkt.src (·.pollResponded rd) ∧
      (s.stageDatagram pkt rd).nextSeq = s.nextSeq := by
  rcases s.stageDatagram_cases pkt rd with ⟨_, e⟩ | ⟨_, e⟩ <;> rw [e] <;> exact ⟨rfl, rfl⟩

theorem ProcessEffect.registryOk {s u : State} (h : ProcessEffect s u) (hi : RegistryOk s.registry s.nextSeq) :
    RegistryOk u.registry u.nextSeq := by
  cases h with
  | dropped e => exact hi
  | duplicate src r ha =>
    rw [(State.stageRegisterResponse_registry _ _).1, (State.stageRegisterResponse_registry _ _).2]
    exact registryOk_update hi _ keepsKeys_registered
  | created src r ha =>
    rw [(State.stageRegisterResponse_registry _ _).1, (State.stageRegisterResponse_registry _ _).2]
    exact registryOk_update (registryOk_insert hi ha) _ keepsKeys_registered
  | response pkt rd r _ _ _ _ _ _ _ =>
    rw [(State.stageDatagram_registry _ _ _).1, (State.stageDatagram_registry _ _ _).2]
    exact registryOk_update hi _ (keepsKeys_pollResponded rd)

/-! ### What stays, what grows -/

/-- The parameters, the command stream, the configuration registers and the session latches are the same. -/
structure SameSetup (s t : State) : Prop where
  params : t.params = s.params
  pending : t.pending = s.pending
  localAddr : t.localAddr = s.localAddr
  userId : t.userId = s.userId
  dataRate : t.dataRate = s.dataRate
  serverIp : t.serverIp = s.serverIp
  serverPort : t.serverPort = s.serverPort
  sLocal : t.sLocal = s.sLocal
  sServerIp : t.sServerIp = s.sServerIp
  sServerPort : t.sServerPort = s.sServerPort

/-- Every output stream of the first is a prefix of that of the second (R62). -/
structure OutputsGrow (s t : State) : Prop where
  radioTx : s.radioTx <+: t.radioTx
  udpTx : s.udpTx <+: t.udpTx
  log : s.log <+: t.log
  devcap : s.devcap <+: t.devcap

theorem SameSetup.trans {s t u : State} (a : SameSetup s t) (b : SameSetup t u) : SameSetup s u :=
  ⟨b.1.trans a.1, b.2.trans a.2, b.3.trans a.3, b.4.trans a.4, b.5.trans a.5, b.6.trans a.6, b.7.trans a.7,
    b.8.trans a.8, b.9.trans a.9, b.10.trans a.10⟩

theorem OutputsGrow.trans {s t u : State} (a : OutputsGrow s t) (b : OutputsGrow t u) : OutputsGrow s u :=
  ⟨a.1.trans b.1, a.2.trans b.2, a.3.trans b.3, a.4.trans b.4⟩

theorem HostEffect.params_pending {s u : State} (h : HostEffect s u) : u.params = s.params ∧ u.pending = s.pending := by
  cases h with
  | cfg n v _ _ => cases n <;> exact ⟨rfl, rfl⟩
  | _ => exact ⟨rfl, rfl⟩

theorem RuleEffect.sameSetup {s u : State} (h : RuleEffect s u) : SameSetup s u := by
  cases h with
  | tick now =>
    unfold State.tick
    rcases s.evictOffline_cases with ⟨_, e⟩ | ⟨o, _, e⟩ <;> rw [e] <;>
    rcases State.pollEarliest_cases _ now with ⟨_, e⟩ | ⟨o, _, ⟨_, e⟩ | ⟨_, e⟩⟩ <;> rw [e] <;> constructor <;> rfl
  | _ => constructor <;> rfl

theorem ProcessEffect.sameSetup {s u : State} (h : ProcessEffect s u) : SameSetup s u := by
  cases h with
  | dropped e => constructor <;> rfl
  | duplicate src r ha =>
    rcases State.stageRegisterResponse_cases (s.addLog (.duplicateReg src)) src with ⟨_, e⟩ | ⟨_, e⟩ <;> rw [e] <;>
      constructor <;> rfl
  | created src r ha =>
    rcases State.stageRegisterResponse_cases (s.insertRecord r) src with ⟨_, e⟩ | ⟨_, e⟩ <;> rw [e] <;>
      constructor <;> rfl
  | response pkt rd r _ _ _ _ _ _ _ =>
    rcases s.stageDatagram_cases pkt rd with ⟨_, e⟩ | ⟨_, e⟩ <;> rw [e] <;> constructor <;> rfl

theorem HostEffect.outputsGrow {s u : State} (h : HostEffect s u) : OutputsGrow s u := by
  cases h with
  | cfg n v _ _ => cases n <;> constructor <;> simp [State.writeCr]
  | start _ _ => constructor <;> simp [State.started]
  | _ => constructor <;> simp

theorem RuleEffect.outputsGrow {s u : State} (h : RuleEffect s u) : OutputsGrow s u := by
  cases h with
  | tick now =>
    unfold State.tick
    rcases s.evictOffline_cases with ⟨_, e⟩ | ⟨o, _, e⟩ <;> rw [e] <;>
    rcases State.pollEarliest_cases _ now with ⟨_, e⟩ | ⟨o, _, ⟨_, e⟩ | ⟨_, e⟩⟩ <;> rw [e] <;> constructor <;> simp
  | _ => constructor <;> simp

theorem ProcessEffect.outputsGrow {s u : State} (h : ProcessEffect s u) : OutputsGrow s u := by
  cases h with
  | dropped e => constructor <;> simp [State.dropWith, State.drop]
  | duplicate src r ha =>
    rcases State.stageRegisterResponse_cases (s.addLog (.duplicateReg src)) src with ⟨_, e⟩ | ⟨_, e⟩ <;> rw [e] <;>
      constructor <;> simp
  | created src r ha =>
    rcases State.stageRegisterResponse_cases (s.insertRecord r) src with ⟨_, e⟩ | ⟨_, e⟩ <;> rw [e] <;>
      constructor <;> simp
  | response pkt rd r _ _ _ _ _ _ _ =>
    rcases s.stageDatagram_cases pkt rd with ⟨_, e⟩ | ⟨_, e⟩ <;> rw [e] <;> constructor <;> simp

end Sys2Proof.Machine
end

