-- ==== Sys2Proof/Tests/Slice0.lean ====
section
/-!
SUPPORT. Tests. The expected results are those of spec/95_test_vectors.md (the vector is named in the comment) or are written
out by hand from the cited rule. Then, for each obligation with hypotheses, a state and operands that meet them.
-/

open Sys2Proof
open Sys2Proof.Machine
open Sys2Proof.Safety
open Sys2Proof.Claims

namespace Sys2Proof.Tests

/-! ### Decoding: words written out from R140..R145 as OPC BUF SUB -/

theorem test_decode_cksum : decodeWord 0b00000001_10_000000 = .ok (.cksum .urb) := by decide
theorem test_decode_bufAppend : decodeWord 0b00000010_01_000000 = .ok (.bufAppend .rwb) := by decide
theorem test_decode_bufReset : decodeWord 0b00000011_11_000000 = .ok (.bufReset .uwb) := by decide
theorem test_decode_bufLen : decodeWord 0b00000100_11_000000 = .ok (.bufLen .uwb) := by decide
theorem test_decode_bufRead : decodeWord 0b00000101_01_000000 = .ok (.bufRead .rwb) := by decide
theorem test_decode_encRreq : decodeWord 0b00010000_01_000000 = .ok (.encRreq .rwb) := by decide
theorem test_decode_encRrsp : decodeWord 0b00010001_01_000000 = .ok (.encRrsp .rwb) := by decide
theorem test_decode_encDreq : decodeWord 0b00010010_01_000000 = .ok (.encDreq .rwb) := by decide
theorem test_decode_encDrsp : decodeWord 0b00010011_11_000000 = .ok (.encDrsp .uwb) := by decide
theorem test_decode_decode : decodeWord 0b00010100_00_000000 = .ok (.decode .rrb) := by decide
theorem test_decode_regFind : decodeWord 0b00100000_00_000000 = .ok .regFind := by decide
theorem test_decode_regAdd : decodeWord 0b00100001_00_000000 = .ok .regAdd := by decide
theorem test_decode_regRemove : decodeWord 0b00100010_00_000000 = .ok .regRemove := by decide
theorem test_decode_regEarliest : decodeWord 0b00100011_00_000000 = .ok .regEarliest := by decide
theorem test_decode_regOffline : decodeWord 0b00100100_00_000000 = .ok .regOffline := by decide
theorem test_decode_regPollreq : decodeWord 0b00100101_00_000000 = .ok .regPollreq := by decide
theorem test_decode_regPollrsp : decodeWord 0b00100110_00_000000 = .ok .regPollrsp := by decide
theorem test_decode_regSize : decodeWord 0b00100111_00_000000 = .ok .regSize := by decide
theorem test_decode_regList : decodeWord 0b00101000_00_000000 = .ok .regList := by decide
theorem test_decode_engStart : decodeWord 0b00110000_00_000000 = .ok .engStart := by decide
theorem test_decode_engStop : decodeWord 0b00110001_00_000000 = .ok .engStop := by decide
theorem test_decode_cfgRead : decodeWord 0b00110010_00_001011 = .ok (.cfgRead .cr11) := by decide
theorem test_decode_cfgWrite : decodeWord 0b00110011_00_000100 = .ok (.cfgWrite .cr4) := by decide
theorem test_decode_engIterHarderr : decodeWord 0b00110100_00_000000 = .ok .engIterHarderr := by decide
theorem test_decode_engIterIntr : decodeWord 0b00110100_00_000001 = .ok .engIterIntr := by decide
theorem test_decode_engIterTimeout : decodeWord 0b00110100_00_000010 = .ok .engIterTimeout := by decide
theorem test_decode_engIterCtrl : decodeWord 0b00110100_00_000011 = .ok .engIterCtrl := by decide
theorem test_decode_engIterRxrdy : decodeWord 0b00110100_00_000100 = .ok .engIterRxrdy := by decide
theorem test_decode_engIterTxrdy : decodeWord 0b00110100_00_000101 = .ok .engIterTxrdy := by decide
theorem test_decode_engIterUdprdy : decodeWord 0b00110100_00_000110 = .ok .engIterUdprdy := by decide

/-- The illegal words of L2.1, each by the name of its reason. -/
theorem test_decode_rejects :
    [0x0000, 0x0601, 0xFF00].map decodeWord = List.replicate 3 (.error .unknownOpcode) ∧
    [0x0201, 0x2040, 0x2001, 0x3210, 0x3408, 0x3440].map decodeWord = List.replicate 6 (.error .mustBeZero) ∧
    decodeWord 0x3407 = .error .reservedOutcome := by decide

/-- The reserved registers of R61 decode to ill-formed instructions (L2.1: `0x3205`, `0x320F`). -/
theorem test_wellFormed_refuses_reserved_registers :
    (Instr.cfgRead .cr5).wellFormed = false ∧ (Instr.cfgWrite .cr12).wellFormed = false ∧
      decodeWord 0x3205 = .ok (.cfgRead .cr5) ∧ decodeWord 0x320F = .ok (.cfgRead .cr15) := by decide

theorem test_wellFormed_accepts_the_defined_registers :
    [CrNum.cr0, .cr4, .cr8, .cr11].all (fun n => (Instr.cfgRead n).wellFormed) = true := by decide

/-! ### Small states -/

/-- A state whose next command comes with the given ports. -/
def given (s : State) (f : Ports → Ports) : State := { s with pending := [⟨0x0000, f .idle⟩] }

/-- The state a command went on to. -/
def after (o : Out) : Option State :=
  match o with
  | .next s => some s
  | .fault _ => none
  | .refused _ => none

/-- `CH4 12.5` of 95_test_vectors.md. -/
def ch4 : Reading := ⟨0x01, 0x00, 0x00, 0x48, 0x41, 33, 90, 0, 7⟩

def pRreq : List Byte := [0xAA, 0x55, 0x0A, 0x09, 0xFF, 0xFF, 0xFF, 0x00, 0x00, 0x00, 0x00, 0x02, 0x01, 0x00]
def pRrsp : List Byte := [0xAA, 0x55, 0x0A, 0x09, 0x00, 0x00, 0x00, 0x02, 0x01, 0x00, 0x00, 0x01, 0x02, 0x06]
def pDreq : List Byte := [0xAA, 0x55, 0x0A, 0x09, 0x00, 0x00, 0x00, 0x02, 0x01, 0x00, 0x00, 0x01, 0x03, 0x07]
def pDrspContent : List Byte :=
  [0x01, 0x00, 0x00, 0x01, 0x00, 0x00, 0x00, 0x02, 0x04, 0x01, 0x00, 0x00, 0x48, 0x41, 0x21, 0x5A, 0x00, 0x07, 0x14]
def pDrsp : List Byte := [0xAA, 0x55, 0x13, 0x12] ++ pDrspContent

/-- `X` and `Y` of L2.5. -/
def x : SensorRecord := ⟨0x02000000, .registerResponded, 0, 0, 0, none, 0⟩
def y : SensorRecord := ⟨0x03000000, .pollRequested, 97, 0, 5, none, 1⟩

/-- Stopped, with the two records, the newer first. -/
def twoRecords : State := { State.reset with registry := [y, x], nextSeq := 2 }

/-- 32 records, none of them `X` or `Y`. -/
def fullRegistry : List SensorRecord :=
  (List.range 32).map fun k =>
    ⟨BitVec.ofNat 32 (0x04000000 + k), .registerPending, 0, 0, 0, none, BitVec.ofNat 64 (31 - k)⟩

def full : State := { State.reset with registry := fullRegistry, nextSeq := 32 }

/-- `CONFIG` of 95_test_vectors.md, stopped. -/
def configured : State :=
  { State.reset with
    localAddr := ⟨0x01000001, true⟩
    userId := ⟨0x12, true⟩
    dataRate := ⟨0, true⟩
    serverIp := ⟨0x0A000001, true⟩
    serverPort := ⟨9000, true⟩ }

/-- `CONFIG` and `ENG_START` done, as R360 says. -/
def running : State :=
  { configured with
    sLocal := 0x01000001
    sServerIp := 0x0A000001
    sServerPort := 9000
    running := true
    intent := .readRadio }

/-- Running with the two records. -/
def serving : State := { running with registry := [y, x], nextSeq := 2 }

/-- Running with `X` asked for its reading. -/
def awaiting : State :=
  { running with registry := [⟨0x02000000, .pollRequested, 1, 0, 100, none, 0⟩], nextSeq := 1 }

/-- Running with a radio packet staged. -/
def sending : State := { serving with intent := .writeRadio, bufs := ⟨[], pRrsp, [], []⟩ }

/-- Running with a datagram staged. -/
def forwarding : State := { serving with intent := .writeUdp, bufs := ⟨[], [], [], pDrspContent⟩ }

def reading (v : List Byte) (s : State) : State := given s fun p => { p with iores := .bytes v }

/-! ### One step per test -/

/-- K5; the boundary K4. -/
theorem test_cksum :
    let s := given { State.reset with bufs := ⟨[0xAA, 0x55, 0x0A], [], [], []⟩ }
    (after (exec (.cksum .rrb) (s fun p => { p with off := 2, len := 2 }))).map (·.result.status) = some .rangeError ∧
      (after (exec (.cksum .rrb) (s fun p => { p with off := 0, len := 3 }))).map (·.result.res) = some (some 0x09) ∧
      (after (exec (.cksum .rrb) (s fun p => { p with off := 3, len := 0 }))).map (·.result.res) = some (some 0) := by
  decide

/-- K8. -/
theorem test_bufAppend :
    (after (exec (.bufAppend .rwb) (given State.reset fun p => { p with data := [0xAA, 0x55] }))).map (·.bufs.rwb)
      = some [0xAA, 0x55] := by decide

/-- K10 with a small capacity. -/
theorem test_bufAppend_overflow :
    let s := { State.resetWith { Params.reference with bufCap := 2 } with bufs := ⟨[], [1, 2], [], []⟩ }
    (after (exec (.bufAppend .rwb) (given s fun p => { p with data := [0x00] }))).map
      (fun t => (t.bufs.rwb, t.result.status)) = some ([1, 2], .allocFail) := by decide

/-- K13. -/
theorem test_bufReset :
    (after (exec (.bufReset .rrb) { State.reset with bufs := ⟨[1, 2, 3], [4], [], []⟩ })).map (·.bufs)
      = some ⟨[], [4], [], []⟩ := by decide

/-- K15. -/
theorem test_bufLen :
    (after (exec (.bufLen .rrb) { running with bufs := ⟨[0xAA, 0x55, 0x0A], [], [], []⟩ })).map (·.result.res)
      = some (some 3) := by decide

/-- R214's example. -/
theorem test_bufRead :
    (after (exec (.bufRead .urb) { State.reset with bufs := ⟨[], [], [0xAA, 0x55], []⟩ })).map (·.result.out)
      = some (some [0xAA, 0x55]) := by decide

/-- N1. -/
theorem test_encRreq :
    (after (exec (.encRreq .rwb) (given State.reset fun p => { p with a := 0x00FFFFFF, b := 0x02000000 }))).map
      (·.bufs.rwb) = some pRreq := by decide

/-- N8: any buffer. -/
theorem test_encRrsp :
    (after (exec (.encRrsp .urb) (given State.reset fun p => { p with a := 0x02000000, b := 0x01000001 }))).map
      (·.bufs.urb) = some pRrsp := by decide

/-- N3. -/
theorem test_encDreq :
    (after (exec (.encDreq .rwb) (given State.reset fun p => { p with a := 0x02000000, b := 0x01000001 }))).map
      (·.bufs.rwb) = some pDreq := by decide

/-- N4. -/
theorem test_encDrsp :
    (after (exec (.encDrsp .uwb)
      (given State.reset fun p => { p with a := 0x01000001, b := 0x02000000, rd := ch4 }))).map (·.bufs.uwb)
      = some pDrsp := by decide

/-- X3, X5, X8, X9, X13: resync after a false preamble, no resync after bad content, an illegal length, missing content, a
preamble outside the window. -/
theorem test_decode_statuses :
    let st := fun v => match decodeBytes Params.reference v with
      | .ok pkt => (Status.ok, pkt.offset)
      | .fail f => (f.status, 0)
    st ([0xAA, 0x55, 0x00, 0x00] ++ pRreq) = (.ok, 4) ∧ st (pRreq.set 4 0xFE ++ pDreq) = (.badContent, 0) ∧
      st [0xAA, 0x55, 0x00, 0xFF] = (.badContent, 0) ∧ st (pRreq.take 13) = (.none, 0) ∧
      st [0x00, 0x00, 0xAA, 0x55, 0x0A] = (.none, 0) := by decide

/-- X14. -/
theorem test_decode_packet :
    (after (exec (.decode .rrb) { State.reset with bufs := ⟨pDrsp, [], [], []⟩ })).map
      (fun t => (t.result.pkt, t.result.res))
      = some (some ⟨0, 19, 0x12, 0x01000001, 0x02000000, 0x04, some ch4, 0x14⟩, some 0) := by decide

/-- G8 and R303's example. -/
theorem test_regFind :
    (after (exec .regFind (given twoRecords fun p => { p with a := 0x02000000 }))).map (·.result.record)
      = some (some x) ∧
    (after (exec .regFind (given State.reset fun p => { p with a := 0x02000000 }))).map (·.result.status)
      = some .none := by decide

/-- G1. -/
theorem test_regAdd_new :
    (after (exec .regAdd (given State.reset fun p => { p with a := 0x02000000 }))).map
      (fun t => (t.registry, t.nextSeq, t.result.res))
      = some ([⟨0x02000000, .registerPending, 0, 0, 0, none, 0⟩], 1, some 0) := by decide

/-- G2: a duplicate is a success with a warning. -/
theorem test_regAdd_duplicate :
    (after (exec .regAdd (given twoRecords fun p => { p with a := 0x02000000 }))).map
      (fun t => (t.registry, t.log, t.result)) =
      some ([y, x], [.duplicateReg 0x02000000], { status := .ok, res := some 1, record := some x }) := by decide

/-- G9 and R304's example. -/
theorem test_regRemove :
    (after (exec .regRemove (given twoRecords fun p => { p with a := 0x02000000 }))).map (·.registry) = some [y] ∧
    (after (exec .regRemove (given twoRecords fun p => { p with a := 0x05000000 }))).map (·.result.status)
      = some .notFound := by decide

/-- V-L1-4: a tie goes to the newer record. -/
theorem test_regEarliest :
    (findEarliest [{ x with seq := 2, lastRequestTime := 25 }, { x with seq := 1, lastRequestTime := 10 },
      { x with seq := 0, lastRequestTime := 10 }]).map (·.seq) = some 1 := by decide

/-- G14, G13: the newest of the offline records. -/
theorem test_regOffline :
    (findOffline [{ x with seq := 1, requestCount := 97 }, { x with seq := 0, requestCount := 96 }] 96).map (·.seq)
      = some 1 ∧
    (findOffline [{ x with seq := 1, requestCount := 95 }, { x with seq := 0, requestCount := 96 }] 96).map (·.seq)
      = some 0 := by decide

/-- G16: a re-poll, with the time going back; G18: the count wraps. -/
theorem test_regPollreq :
    (after (exec .regPollreq (given twoRecords fun p => { p with a := 0x03000000, now := 3 }))).map (·.registry)
      = some [{ y with requestCount := 98, lastRequestTime := 3 }, x] ∧
    (SensorRecord.pollRequested { x with requestCount := 0xFFFFFFFF, responseCount := 0xFFFFFFF0 } 1).deficit = 16 := by
  decide

/-- G19, and V-L1-6. -/
theorem test_regPollrsp :
    (after (exec .regPollrsp (given twoRecords fun p => { p with a := 0x03000000, rd := ch4 }))).map (·.registry)
      = some [{ y with state := .pollResponded, responseCount := 1, lastReading := some ch4 }, x] ∧
    (after (exec .regPollrsp (given twoRecords fun p => { p with a := 0x02000000, rd := ch4 }))).map
      (fun t => (t.registry, t.result.status)) = some ([y, x], .stateMismatch) := by decide

/-- G23. -/
theorem test_regSize : (after (exec .regSize twoRecords)).map (·.result.res) = some (some 2) := by decide

/-- G22. -/
theorem test_regList : (after (exec .regList twoRecords)).map (·.result.list) = some (some [y, x]) := by decide

/-- F34 and R360's example. -/
theorem test_engStart :
    (after (exec .engStart { configured with bufs := ⟨[1], [2], [3], [4]⟩ })).map
      (fun t => (t.devcap, t.engStatus, t.intent.view, t.bufs, t.sServerPort))
      = some ([.setNetworkId 0x0012, .setFrequency 2, .setDataRate 0], 0b0001, 0b00001, ⟨[], [], [], []⟩, 9000) := by
  decide

/-- F5. -/
theorem test_engStop : (after (exec .engStop running)).map (·.engStatus) = some 0b1001 := by decide

/-- F33 and R53. -/
theorem test_cfgRead :
    (after (exec (.cfgRead .cr0) State.reset)).map (·.result.status) = some .unconfigured ∧
    (after (exec (.cfgRead .cr1) configured)).map (·.result.res) = some (some 0x0012) ∧
    (after (exec (.cfgRead .cr10) twoRecords)).map (·.result.res) = some (some 2) := by decide

/-- F30, F31. -/
theorem test_cfgWrite :
    let w := fun n v => (after (exec (.cfgWrite n) (given State.reset fun p => { p with val := v })))
    (w .cr1 0x00).map (·.result.status) = some .rangeError ∧ (w .cr1 0xF1).map (·.result.status) = some .rangeError ∧
      (w .cr1 0xF0).map (·.networkId) = some 0x00F0 ∧ (w .cr1 0xABCD12).map (·.networkId) = some 0x0012 ∧
      (w .cr4 0x12345678).map (·.serverPort) = some ⟨0x5678, true⟩ := by decide

/-- F7. -/
theorem test_engIterHarderr :
    (after (exec .engIterHarderr { running with ctrlPending := true })).map (fun t => (t.engStatus, t.log, t.result))
      = some (0b0100, [.fatal .io], { status := .exited }) := by decide

/-- F6. -/
theorem test_engIterIntr :
    (after (exec .engIterIntr { serving with ctrlPending := true })).map (fun t => (t.engStatus, t.waitTimeout))
      = some (0b1001, 16) := by decide

/-- L3-4, line 2: an eviction and a poll in one tick. -/
theorem test_engIterTimeout :
    let late : SensorRecord := { x with state := .pollRequested, requestCount := 96, lastRequestTime := 96 }
    let s : State := { running with registry := [{ y with requestCount := 0, lastRequestTime := 0 }, late] }
    (after (exec .engIterTimeout (given s fun p => { p with now := 200 }))).map
      (fun t => (t.registry, t.log, t.bufs.rwb, t.intent, t.waitTimeout))
      = some ([{ y with requestCount := 1, lastRequestTime := 200 }], [.evict 0x02000000],
        [0xAA, 0x55, 0x0A, 0x09, 0x00, 0x00, 0x00, 0x03, 0x01, 0x00, 0x00, 0x01, 0x03, 0x08], .writeRadio, 16) := by
  decide

/-- F8; F4. -/
theorem test_engIterCtrl :
    (after (exec .engIterCtrl { sending with ctrlPending := true })).map (fun t => (t.engStatus, t.bufs, t.radioTx))
      = some (0b0010, ⟨[], [], [], []⟩, []) ∧
    (after (exec .engIterCtrl running)).map (·.result.status) = some .illegalCommand := by decide

/-- V-L1-7. -/
theorem test_engIterRxrdy_registration :
    (after (exec .engIterRxrdy (reading pRreq running))).map (fun t => (t.registry, t.bufs, t.intent))
      = some ([x], ⟨[], pRrsp, [], []⟩, .writeRadio) := by decide

/-- V-L1-9. -/
theorem test_engIterRxrdy_response :
    (after (exec .engIterRxrdy (reading pDrsp awaiting))).map (fun t => (t.registry, t.bufs, t.intent))
      = some ([⟨0x02000000, .pollResponded, 1, 1, 100, some ch4, 0⟩], ⟨[], [], [], pDrspContent⟩, .writeUdp) := by decide

/-- R375's example; F9. -/
theorem test_engIterTxrdy :
    (after (exec .engIterTxrdy (given sending fun p => { p with iores := .ok }))).map
      (fun t => (t.radioTx, t.bufs.rwb, t.intent)) = some ([pRrsp], [], .readRadio) ∧
    (after (exec .engIterTxrdy (given running fun p => { p with iores := .ok }))).map (·.result.status)
      = some .illegalCommand := by decide

/-- F16. -/
theorem test_engIterUdprdy :
    (after (exec .engIterUdprdy (given forwarding fun p => { p with iores := .ok }))).map
      (fun t => (t.udpTx, t.bufs.uwb, t.intent)) = some ([⟨0x0A000001, 9000, pDrspContent⟩], [], .readRadio) := by decide

/-- A word runs as the first command after reset, and a result port that holds no value is a fault for its reader (R42). -/
theorem test_first_command_after_reset :
    (after (step (State.reset.withFetchWord 16 0x2700))).map (fun t => (t.result.readRes, t.result.readOut, t.pending))
      = some (.ok 0, .error .portHoldsNoValue, []) := by decide

/-! ### Witnesses: a state and operands that meet the hypotheses of each obligation, clause by clause -/

/-- `s` with one command of the given word and ports. -/
def issue (s : State) (w : CmdWord) (f : Ports → Ports) : State := { s with pending := [⟨w, f .idle⟩] }

theorem witness_EncodeOfDecodeIsTheWord : decodeWord 0x320F = .ok (.cfgRead .cr15) := by decide

/-- An unknown operation, a must-be-zero field, the reserved outcome, a reserved register. -/
theorem witness_IllegalWordIsRefused :
    ¬ LegalWord 0x3500 ∧ ¬ LegalWord 0x2040 ∧ ¬ LegalWord 0x3407 ∧ ¬ LegalWord 0x3205 ∧
      (issue State.reset 0x3205 id).pending = ⟨0x3205, .idle⟩ :: [] := by
  refine ⟨?_, ?_, ?_, ?_, rfl⟩ <;> unfold LegalWord <;> simp

theorem witness_StepRunsTheDecodedCommand :
    (issue State.reset 0x2700 id).pending = ⟨0x2700, .idle⟩ :: [] ∧ decodeWord 0x2700 = .ok .regSize := by decide

theorem witness_CommandsAreConsumedInOrder : ∃ t, step (issue running 0x3402 id) = .next t := ⟨_, rfl⟩

theorem witness_CksumCommand :
    let s := given { State.reset with bufs := ⟨[1, 2, 3], [], [], []⟩ } fun p => { p with off := 2, len := 1 }
    let s' := given { State.reset with bufs := ⟨[1, 2, 3], [], [], []⟩ } fun p => { p with off := 0xFFFF, len := 0xFFFF }
    s.ports.off.toNat + s.ports.len.toNat ≤ (s.buf .rrb).length ∧
      (s'.buf .rrb).length < s'.ports.off.toNat + s'.ports.len.toNat := by decide

theorem witness_ReferenceChecksumIsTheByteSum : Params.reference.cksum = .sumMod256 := rfl

/-- The last append that fits and the first that does not. -/
theorem witness_BufAppendCommand :
    let s := fun n => given { State.resetWith { Params.reference with bufCap := 3 } with bufs := ⟨[], [1, 2], [], []⟩ }
      fun p => { p with data := List.replicate n 0 }
    running.running = true ∧
      ((s 2).running = false ∧ (s 2).params.bufCap < ((s 2).buf .rwb).length + (s 2).ports.data.length) ∧
      ((s 1).running = false ∧ ((s 1).buf .rwb).length + (s 1).ports.data.length ≤ (s 1).params.bufCap) := by decide

theorem witness_BufResetCommand : running.running = true ∧ State.reset.running = false := by decide

theorem witness_BufferWritersFrame :
    (∀ i ∈ [Instr.bufAppend .uwb, .bufReset .uwb, .encRreq .uwb, .encRrsp .uwb, .encDreq .uwb, .encDrsp .uwb],
        (after (exec i State.reset)).isSome = true) ∧
      0 < ({ State.reset with bufs := ⟨[], [], [], [9]⟩ }.buf .uwb).length := by decide

theorem witness_ReadOnlyCommandsChangeNoState :
    [Instr.bufRead .rrb, .bufLen .rrb, .cksum .rrb, .decode .rrb, .regFind, .regEarliest, .regOffline, .regSize, .regList,
      .cfgRead .cr0].all isReadOnly = true := by decide

theorem witness_BuffersNeverExceedCapacity :
    let s := issue State.reset 0x1340 id
    BuffersFit s ∧ ∃ t, step s = .next t := ⟨by decide, _, rfl⟩

theorem witness_EncodersOverwriteTheirBuffer :
    23 ≤ { Params.reference with bufCap := 23 }.bufCap ∧ State.reset.running = false ∧ running.running = true ∧
      State.reset.ports.a = 0 ∧ State.reset.ports.b = 0 ∧
      ((0x10 : BitVec 8), Instr.encRreq .rrb, controlPacket State.reset.params State.reset.params.cmdRreq 0 0) ∈
        [((0x10 : BitVec 8), Instr.encRreq .rrb, controlPacket State.reset.params State.reset.params.cmdRreq 0 0)] := by
  decide

/-- No header at all; a header behind a false preamble with, in turn, an illegal length, too little content, bad content and
good content. -/
theorem witness_DecoderDecidesAtTheFirstValidHeader :
    let p := Params.reference
    (∀ i, ¬ ValidHeaderAt p [] i) ∧
      (let v : List Byte := [0xAA, 0x55, 0x00, 0x00] ++ pRreq
       ValidHeaderAt p v 4 ∧ (∀ j, j < 4 → ¬ ValidHeaderAt p v j) ∧ (byteAt v 6).toNat = 10 ∧ 4 + 4 + 10 ≤ v.length ∧
         ValidContentAt p v 4 10) ∧
      (let v : List Byte := [0xAA, 0x55, 0x00, 0xFF]
       ValidHeaderAt p v 0 ∧ (byteAt v 2).toNat ≠ 10 ∧ (byteAt v 2).toNat ≠ 19) ∧
      (let v := pDrsp.take 22
       ValidHeaderAt p v 0 ∧ (byteAt v 2).toNat = 19 ∧ v.length < 0 + 4 + 19) ∧
      (let v := pDrsp.set 22 0x15
       ValidHeaderAt p v 0 ∧ (byteAt v 2).toNat = 19 ∧ 0 + 4 + 19 ≤ v.length ∧ ¬ ValidContentAt p v 0 19) := by
  refine ⟨fun i h => ?_, ?_⟩
  · have := h.1
    simp at this
  · unfold ValidHeaderAt ValidContentAt
    decide

/-- The law holds of the reference checksum; the first and the last bit of each part of a packet. -/
theorem witness_SingleBitErrorsFailClosed :
    SingleBitLaw (checksum Params.reference) ∧
      (serialize Params.reference 0x04 0 0 (some ch4)).length = 23 ∧ (serialize Params.reference 0x01 0 0 none).length = 14 ∧
      decodeBytes Params.reference (flipBit pRreq 0 0 ++ pDreq) = .ok (packetAt (flipBit pRreq 0 0 ++ pDreq) 14) :=
  ⟨sumMod256_flipBit_ne, by decide, by decide, by decide⟩

theorem witness_DecodeCommand :
    let s := fun v => { State.reset with bufs := ⟨v, [], [], []⟩ }
    decodeBytes (s pRreq).params ((s pRreq).buf .rrb) = .ok ⟨0, 10, 0x09, 0x00FFFFFF, 0x02000000, 0x01, none, 0x00⟩ ∧
      decodeBytes (s []).params ((s []).buf .rrb) = .fail .none ∧
      decodeBytes (s [0xAA, 0x55, 0x00, 0xFF]).params ((s [0xAA, 0x55, 0x00, 0xFF]).buf .rrb) = .fail .badContent := by
  decide

theorem witness_RegFindCommand :
    RegistryInv twoRecords ∧ (∃ r ∈ twoRecords.registry, r.address = (given twoRecords fun p => { p with a := y.address }).ports.a) ∧
      ∀ r ∈ twoRecords.registry, r.address ≠ (given twoRecords fun p => { p with a := 0xFFFFFFFF }).ports.a := by decide

/-- Running; out of range on either side; full; known; new. -/
theorem witness_RegAddCommand :
    running.running = true ∧
      ({ Params.reference with srcRangeCheck := true }.srcRangeCheck = true ∧
        ((0x00FFFFFF : Addr) < 0x01000000 ∨ (0xFFFFFFFE : Addr) < 0x00FFFFFF) ∧
        ((0xFFFFFFFF : Addr) < 0x01000000 ∨ (0xFFFFFFFE : Addr) < 0xFFFFFFFF)) ∧
      (full.running = false ∧ full.params.srcRangeCheck = false ∧ 32 ≤ full.registry.length) ∧
      (twoRecords.running = false ∧ twoRecords.registry.length < 32 ∧ (twoRecords.registry.map (·.address)).Nodup ∧
        ∃ r ∈ twoRecords.registry, r.address = (given twoRecords fun p => { p with a := x.address }).ports.a) ∧
      ((∀ r ∈ twoRecords.registry, r.address ≠ twoRecords.ports.a) ∧ twoRecords.nextSeq ≠ 0xFFFFFFFFFFFFFFFF) := by decide

/-- The registry commands that name a record: running, absent, present. -/
theorem witness_RegRemoveCommand :
    (RegistryInv serving ∧ serving.running = true) ∧ (RegistryInv twoRecords ∧ twoRecords.running = false) ∧
      (∀ r ∈ twoRecords.registry, r.address ≠ twoRecords.ports.a) ∧
      ∃ r ∈ twoRecords.registry, r.address = (given twoRecords fun p => { p with a := x.address }).ports.a := by decide

theorem witness_RegEarliestCommand : State.reset.registry = [] ∧ twoRecords.registry ≠ [] := by decide

theorem witness_RegOfflineCommand :
    let s := fun n => given twoRecords fun p => { p with t := n }
    RegistryInv (s 98) ∧ (∀ r ∈ (s 98).registry, (r.requestCount - r.responseCount).toNat < (s 98).ports.t.toNat) ∧
      y ∈ (s 97).registry ∧ (s 97).ports.t.toNat ≤ (y.requestCount - y.responseCount).toNat ∧
      ∀ q ∈ (s 97).registry, (s 97).ports.t.toNat ≤ (q.requestCount - q.responseCount).toNat → q.seq ≤ y.seq := by decide

theorem witness_RegPollreqCommand :
    (RegistryInv serving ∧ serving.running = true) ∧ (RegistryInv twoRecords ∧ twoRecords.running = false) ∧
      (∀ r ∈ twoRecords.registry, r.address ≠ twoRecords.ports.a) ∧
      ∃ r ∈ twoRecords.registry, r.address = (given twoRecords fun p => { p with a := y.address }).ports.a := by decide

theorem witness_RegPollrspCommand :
    (RegistryInv serving ∧ serving.running = true) ∧ (RegistryInv twoRecords ∧ twoRecords.running = false) ∧
      (∀ r ∈ twoRecords.registry, r.address ≠ twoRecords.ports.a) ∧
      (∃ r ∈ twoRecords.registry,
        r.address = (given twoRecords fun p => { p with a := x.address }).ports.a ∧ r.state ≠ .pollRequested) ∧
      ∃ r ∈ twoRecords.registry,
        r.address = (given twoRecords fun p => { p with a := y.address }).ports.a ∧ r.state = .pollRequested := by decide

theorem witness_RegSizeAndRegListCommands : RegistryInv full ∧ RegistryInv twoRecords := by decide

theorem witness_EveryStepKeepsRegistryInv :
    let s := issue twoRecords 0x2100 fun p => { p with a := 0x05000000 }
    RegistryInv s ∧ ∃ t, step s = .next t := ⟨by decide, _, rfl⟩

/-- A registration of a new sensor, so that both kinds of record are there after it. -/
theorem witness_RecordsFollowTheStateMachine :
    let s := issue awaiting 0x3404 fun p => { p with iores := .bytes (pRreq.set 11 0x03 |>.set 13 0x01) }
    RegistryInv s ∧ IterationInv s ∧ ∃ t, step s = .next t ∧ ∃ q ∈ t.registry, q.address = 0x03000000 :=
  ⟨by decide, by decide, _, rfl, ⟨0x03000000, .registerResponded, 0, 0, 0, none, 1⟩, by decide, by decide⟩

theorem witness_CountersFollowTheStateMachine :
    let s := issue twoRecords 0x2600 fun p => { p with a := y.address, rd := ch4 }
    RegistryInv s ∧ ∃ t, step s = .next t ∧ y ∈ s.registry ∧ ∃ q ∈ t.registry, y.seq = q.seq :=
  ⟨by decide, _, rfl, by decide, { y with state := .pollResponded, responseCount := 1, lastReading := some ch4 },
    by decide, by decide⟩

theorem witness_NextSeqCountsCreations :
    let s := issue twoRecords 0x2100 fun p => { p with a := 0x05000000 }
    RegistryInv s ∧ ∃ t, step s = .next t := ⟨by decide, _, rfl⟩

theorem witness_EngStartCommand :
    running.running = true ∧
      (let s := { configured with serverPort := .unwritten 16 }
       s.running = false ∧ ¬ (s.localAddr.written = true ∧ s.userId.written = true ∧ s.dataRate.written = true ∧
         s.serverIp.written = true ∧ s.serverPort.written = true)) ∧
      configured.running = false ∧ configured.localAddr.written = true ∧ configured.userId.written = true ∧
      configured.dataRate.written = true ∧ configured.serverIp.written = true ∧ configured.serverPort.written = true := by
  decide

theorem witness_EngStopCommand : State.reset.running = false ∧ running.running = true := by decide

theorem witness_CfgReadCommand : full.registry.length ≤ 32 ∧ State.reset.registry.length ≤ 32 := by decide

theorem witness_CfgWriteCommand :
    (∀ n ∈ [CrNum.cr5, .cr8, .cr15], n ∉ [CrNum.cr0, .cr1, .cr2, .cr3, .cr4]) ∧ running.running = true ∧
      State.reset.running = false := by decide

theorem witness_RunningEngineRefusesMutation :
    running.running = true ∧ isMutating .regAdd = true ∧ isMutating (.cfgWrite .cr0) = true ∧
      isMutating (.cfgWrite .cr9) = false ∧ ∃ t, exec (.cfgWrite .cr9) running = .next t :=
  ⟨rfl, rfl, rfl, rfl, _, rfl⟩

theorem witness_StoppedEngineRefusesEngineCommands :
    State.reset.running = false ∧ (outcomeOf .engIterIntr).isSome = true ∧ Instr.regSize ≠ .engStop ∧
      outcomeOf .regSize = none ∧ ∃ t, exec .regSize State.reset = .next t :=
  ⟨rfl, rfl, by decide, rfl, _, rfl⟩

theorem witness_RefusedCommandsChangeNothing :
    ∃ t, exec .regPollrsp (given twoRecords fun p => { p with a := x.address }) = .next t ∧
      t.result.status ∈ [Status.notFound, .capacityExceeded, .stateMismatch, .illegalCommand, .busy, .notRunning,
        .allocFail, .rangeError, .unconfigured] := ⟨_, rfl, by decide⟩

/-- For each outcome that has a condition, a state that meets it; the longest read and one byte more. -/
theorem witness_OnlyAdmissibleOutcomesRun :
    running.running = true ∧ Admissible running .ok .timeout ∧ ¬ Admissible running .ok .ctrl ∧
      Admissible { running with ctrlPending := true } .ok .ctrl ∧
      Admissible running (.bytes (List.replicate 256 0)) .rxRdy ∧ ¬ Admissible running (.bytes []) .rxRdy ∧
      Admissible sending .ok .txRdy ∧ ¬ Admissible sending .eof .txRdy ∧ Admissible forwarding .wouldBlock .udpRdy :=
  ⟨rfl, rfl, (fun h => by cases h), rfl,
    ⟨rfl, rfl, .inl ⟨_, rfl, (by rw [List.length_replicate]; decide), (by rw [List.length_replicate]; decide)⟩⟩,
    (fun h => by
      obtain ⟨_, _, ⟨v, hv, h1, _⟩ | h | h | h⟩ := h
      · cases hv
        exact absurd h1 (by decide)
      all_goals cases h),
    ⟨rfl, rfl, .inl rfl⟩, (fun h => by obtain ⟨_, _, h | h | h⟩ := h <;> cases h), ⟨rfl, rfl, .inr (.inl rfl)⟩⟩

theorem witness_IterationRecordsTheWaitTimeout :
    outcomeOf .engIterTimeout = some .timeout ∧ serving.running = true ∧ Admissible serving serving.ports.iores .timeout ∧
      ∃ t, exec .engIterTimeout serving = .next t := ⟨rfl, rfl, rfl, _, rfl⟩

theorem witness_WaitOutcomesWithoutIo :
    running.running = true ∧ running.intent.processPending = false ∧ { running with ctrlPending := true }.ctrlPending = true :=
  ⟨rfl, rfl, rfl⟩

theorem witness_RadioWriteOutcomes :
    sending.running = true ∧ sending.ctrlPending = false ∧ sending.intent = .writeRadio ∧
      ∀ io ∈ [IoRes.ok, .wouldBlock, .error], (given sending fun p => { p with iores := io }).ports.iores = io := by decide

theorem witness_UdpSendOutcomes :
    forwarding.running = true ∧ forwarding.ctrlPending = false ∧ forwarding.intent = .writeUdp ∧
      ∀ io ∈ [IoRes.ok, .wouldBlock, .error], (given forwarding fun p => { p with iores := io }).ports.iores = io := by
  decide

/-- An empty registry, and one with an offline record. -/
theorem witness_TimeoutRunsTheTick :
    ∀ s ∈ [running, serving], RegistryInv s ∧ s.running = true ∧ s.ctrlPending = false ∧
      s.intent.processPending = false ∧ 23 ≤ s.params.bufCap := by decide

theorem witness_RadioReadWithoutBytes :
    running.running = true ∧ running.ctrlPending = false ∧ running.intent = .readRadio ∧
      ∀ io ∈ [IoRes.wouldBlock, .eof, .error], (given running fun p => { p with iores := io }).ports.iores = io := by decide

/-- A read of the bytes `v` by a running engine with the given registry. -/
theorem witness_ReadyToRead (v : List Byte) (reg : List SensorRecord) (h1 : 1 ≤ v.length) (h2 : v.length ≤ 256) :
    ReadyToRead (reading v { running with registry := reg, nextSeq := 40 }) v :=
  ⟨rfl, rfl, rfl, rfl, rfl, h1, h2⟩

/-- Bytes without a packet; a packet of an unrecognized command. -/
theorem witness_UnusableInputIsDropped :
    ReadyToRead (reading [0x00] { running with registry := [], nextSeq := 40 }) [0x00] ∧
      decodeBytes Params.reference [0x00] = .fail .none ∧
      ∃ pkt, decodeBytes Params.reference pDreq = .ok pkt ∧ pkt.command ≠ Params.reference.cmdRreq ∧
        pkt.command ≠ Params.reference.cmdDrsp :=
  ⟨witness_ReadyToRead _ _ (by decide) (by decide), by decide, packetAt pDreq 0, by decide, by decide, by decide⟩

/-- A stopped block and a running one, each one creation past the last sequence number. -/
theorem witness_ExhaustedSequenceIsRefused :
    (let s := { twoRecords with nextSeq := 0xFFFFFFFFFFFFFFFF }
     s.nextSeq = 0xFFFFFFFFFFFFFFFF ∧ s.params.srcRangeCheck = false ∧ s.registry.length < 32 ∧ s.running = false ∧
       ∀ r ∈ s.registry, r.address ≠ s.ports.a) ∧
      ReadyToRead (reading pRreq { running with registry := [], nextSeq := 0xFFFFFFFFFFFFFFFF }) pRreq ∧
      running.params.srcRangeCheck = false ∧ decodeBytes running.params pRreq = .ok (packetAt pRreq 0) ∧
      (packetAt pRreq 0).command = running.params.cmdRreq ∧ (packetAt pRreq 0).dest = 0x00FFFFFF :=
  ⟨by decide, ⟨rfl, rfl, rfl, rfl, rfl, by decide, by decide⟩, by decide⟩

/-- A request to the gateway only; one out of range; a full registry; a new address; a known one, pending and not. -/
theorem witness_RegistrationDispatch :
    ReadyToRead (reading pRreq { running with registry := fullRegistry, nextSeq := 40 }) pRreq ∧
      RegistryInv { running with registry := fullRegistry, nextSeq := 40 } ∧ fullRegistry.length = 32 ∧
      RegistryInv { running with registry := [{ x with state := .registerPending }], nextSeq := 40 } ∧
      RegistryInv { running with registry := [{ y with seq := 0 }], nextSeq := 40 } ∧
      y.address ≠ x.address ∧ 23 ≤ Params.reference.bufCap ∧
      (decodeBytes Params.reference pRreq = .ok (packetAt pRreq 0) ∧ (packetAt pRreq 0).command = Params.reference.cmdRreq ∧
        (packetAt pRreq 0).dest = 0x00FFFFFF ∧ (packetAt pRreq 0).src = x.address) ∧
      (let v : List Byte := [0xAA, 0x55, 0x0A, 0x09, 0x01, 0x00, 0x00, 0x01, 0x00, 0x00, 0x00, 0x02, 0x01, 0x05]
       decodeBytes Params.reference v = .ok (packetAt v 0) ∧ (packetAt v 0).dest ≠ 0x00FFFFFF) ∧
      (let v : List Byte := [0xAA, 0x55, 0x0A, 0x09, 0xFF, 0xFF, 0xFF, 0x00, 0xFF, 0xFF, 0xFF, 0x00, 0x01, 0xFB]
       decodeBytes { Params.reference with srcRangeCheck := true } v = .ok (packetAt v 0) ∧
         (packetAt v 0).src < 0x01000000) :=
  ⟨witness_ReadyToRead _ _ (by decide) (by decide), by decide⟩

/-- A response to another gateway, one in control shape, one nobody asked for, one asked for. -/
theorem witness_PollResponseDispatch :
    ReadyToRead (reading pDrsp awaiting) pDrsp ∧ RegistryInv awaiting ∧ ParamsLegal awaiting.params ∧
      (decodeBytes Params.reference pDrsp = .ok (packetAt pDrsp 0) ∧ (packetAt pDrsp 0).command = Params.reference.cmdDrsp ∧
        (packetAt pDrsp 0).dest = awaiting.sLocal ∧ (packetAt pDrsp 0).contentLength = 19 ∧
        ∃ r ∈ awaiting.registry, r.address = (packetAt pDrsp 0).src ∧ r.state = .pollRequested) ∧
      (RegistryInv { running with registry := [x], nextSeq := 1 } ∧ x.address = (packetAt pDrsp 0).src ∧
        x.state ≠ .pollRequested) ∧
      (let v := (pDrsp.set 4 0x02).set 22 0x15
       decodeBytes Params.reference v = .ok (packetAt v 0) ∧ (packetAt v 0).dest ≠ running.sLocal) ∧
      (let v : List Byte := [0xAA, 0x55, 0x0A, 0x09, 0x01, 0x00, 0x00, 0x01, 0x00, 0x00, 0x00, 0x02, 0x04, 0x08]
       decodeBytes Params.reference v = .ok (packetAt v 0) ∧ (packetAt v 0).contentLength ≠ 19) :=
  ⟨⟨rfl, rfl, rfl, rfl, rfl, by decide, by decide⟩, by decide⟩

theorem witness_EveryStepKeepsIterationInv :
    let s := issue serving 0x3402 id
    IterationInv s ∧ ∃ t, step s = .next t := ⟨by decide, _, rfl⟩

theorem witness_EveryStepKeepsConfigurationInv :
    let s := issue configured 0x3000 id
    (LatchInv s ∧ StoppedInv s ∧ UserIdInv s) ∧ (LatchInv running ∧ StoppedInv running ∧ UserIdInv running) ∧
      ∃ t, step s = .next t := ⟨by decide, by decide, _, rfl⟩

/-- One state for each of the three causes. -/
theorem witness_EngineStopsOnlyOnFailureOrShutdown :
    ∀ s ∈ [issue serving 0x3400 id, issue { serving with ctrlPending := true } 0x3403 id,
        issue serving 0x3404 fun p => { p with iores := .eof }],
      23 ≤ s.params.bufCap ∧ IterationInv s ∧ s.running = true ∧ (after (step s)).map (·.running) = some false := by decide

/-- A response that is staged, and a datagram that waits. -/
theorem witness_OnlyValidatedReadingsReachUdp :
    (let s := issue awaiting 0x3404 fun p => { p with iores := .bytes pDrsp }
     IterationInv s ∧ s.running = true ∧ s.intent ≠ .writeUdp ∧ (after (step s)).map (·.intent) = some .writeUdp) ∧
      (let s := issue forwarding 0x3406 fun p => { p with iores := .wouldBlock }
       IterationInv s ∧ s.running = true ∧ s.intent = .writeUdp ∧ (after (step s)).map (·.intent) = some .writeUdp) := by
  decide

theorem witness_OutputStreamsOnlyGrow : ∃ t, step (issue configured 0x3000 id) = .next t := ⟨_, rfl⟩

end Sys2Proof.Tests
end

section
/-!
The statements about the block's state (spec/10_state.md): what every step keeps of the registry, the buffers, the
configuration and the output streams, and what power-on reset establishes. Each is a property every effect of
Laws/Effects.lean keeps, so `KeptByEffects.step` carries it over a step.
-/

namespace Sys2Proof.Machine

open Sys2Proof.Safety

/-! ### From effects to steps -/

/-- A property that every effect a command can have keeps, and every part of a step around the effects. The rule of an
iteration and `process()` run in a running engine only. -/
structure KeptByEffects (P : State → Prop) : Prop where
  host : ∀ {s u : State}, P s → HostEffect s u → P u
  rule : ∀ {s u : State}, s.running = true → P s → RuleEffect s u → P u
  process : ∀ {s u : State}, s.running = true → P s → ProcessEffect s u → P u
  endProcess : ∀ {s : State}, P s → P s.endProcess
  armed : ∀ {s : State}, P s → P s.armed
  finish : ∀ {s : State} (r : ResultPorts), P s → P (s.finish r)
  retire : ∀ {s : State}, P s → P s.retire

theorem KeptByEffects.iterated {P : State → Prop} (k : KeptByEffects P) {s t : State} {o : WaitOutcome} (hs : P s)
    (h : Iterated s o t) : P t := by
  obtain ⟨u, hu, hrest⟩ := h.cases
  have pu : P u := k.rule (s := s.armed) h.1 (k.armed hs) hu
  rcases hrest with ⟨_, rfl⟩ | ⟨hr, _, v, hv, rfl⟩
  · exact k.finish _ pu
  · exact k.finish _ (k.endProcess (k.process hr pu hv))

theorem KeptByEffects.step {P : State → Prop} (k : KeptByEffects P) {s t : State} (hs : P s) (h : step s = .next t) :
    P t := by
  rcases step_cases h with ⟨_, rfl⟩ | ⟨_, _, _, ⟨u, hu, he⟩ | ⟨_, u, _, hu, rfl⟩⟩
  · exact hs
  · rw [he]
    exact k.retire (k.finish _ (k.host hs hu))
  · exact k.retire (k.iterated hs hu)

/-! ### The registry (R48, R49) -/

theorem registryInv_kept : KeptByEffects RegistryInv where
  host hs h := h.registryOk hs
  rule _ hs h := h.registryOk hs
  process _ hs h := h.registryOk hs
  endProcess hs := hs
  armed hs := hs
  finish _ hs := hs
  retire hs := hs

/-- `NEXT_SEQ` is the same, or it advanced by one and a record carries its old value. -/
def SeqAdvance (s u : State) : Prop :=
  u.nextSeq = s.nextSeq ∨ (u.nextSeq = s.nextSeq + 1 ∧ ∃ q ∈ u.registry, q.seq = s.nextSeq)

theorem HostEffect.seqAdvance {s u : State} (h : HostEffect s u) : SeqAdvance s u := by
  cases h with
  | create a r _ ha =>
    obtain ⟨rfl, _⟩ := addCheck_created ha
    exact .inr ⟨rfl, _, List.mem_cons_self, rfl⟩
  | cfg n v _ _ => cases n <;> exact .inl rfl
  | _ => exact .inl rfl

theorem RuleEffect.nextSeq_eq {s u : State} (h : RuleEffect s u) : u.nextSeq = s.nextSeq := by
  cases h with
  | tick now =>
    have he : s.evictOffline.nextSeq = s.nextSeq := by
      rcases s.evictOffline_cases with ⟨_, e⟩ | ⟨_, _, e⟩
      · rw [e]
      · rw [e]
        rfl
    rcases s.evictOffline.pollEarliest_cases now with ⟨_, e⟩ | ⟨_, _, ⟨_, e⟩ | ⟨_, e⟩⟩ <;>
      exact (congrArg State.nextSeq e).trans he
  | _ => rfl

theorem ProcessEffect.seqAdvance {s u : State} (h : ProcessEffect s u) : SeqAdvance s u := by
  cases h with
  | dropped e => exact .inl rfl
  | duplicate src r ha => exact .inl (State.stageRegisterResponse_registry _ _).2
  | created src r ha =>
    obtain ⟨rfl, _⟩ := addCheck_created ha
    obtain ⟨hreg, hseq⟩ := (s.insertRecord (newRecord src s.nextSeq)).stageRegisterResponse_registry src
    refine .inr ⟨hseq, (newRecord src s.nextSeq).registered, ?_, (keepsKeys_registered _).2⟩
    rw [hreg]
    exact mem_updateRecord.mpr ⟨newRecord src s.nextSeq, List.mem_cons_self, (if_pos rfl).symm⟩
  | response pkt rd r _ _ _ _ _ _ _ => exact .inl (State.stageDatagram_registry _ _ _).2

theorem Iterated.seqAdvance {s t : State} {o : WaitOutcome} (h : Iterated s o t) : SeqAdvance s t := by
  obtain ⟨u, hu, ⟨_, rfl⟩ | ⟨_, _, v, hv, rfl⟩⟩ := h.cases
  · exact .inl hu.nextSeq_eq
  · have hseq : u.nextSeq = s.nextSeq := hu.nextSeq_eq
    have hadvance : SeqAdvance u v := hv.seqAdvance
    rwa [SeqAdvance, hseq] at hadvance

/-- One step creates at most one record, and `NEXT_SEQ` tells (R49, R302). -/
theorem step_seqAdvance {s t : State} (h : step s = .next t) : SeqAdvance s t := by
  rcases step_cases h with ⟨_, rfl⟩ | ⟨_, _, _, ⟨u, hu, he⟩ | ⟨_, u, _, hu, rfl⟩⟩
  · exact .inl rfl
  · rw [he]
    exact hu.seqAdvance
  · exact hu.seqAdvance

/-! ### The configuration (R66, R53, R482) -/

/-- The invariants of the latches, the stopped engine and the user id. -/
abbrev ConfigurationInv (s : State) : Prop := LatchInv s ∧ StoppedInv s ∧ UserIdInv s

theorem latchInv_of_stopped {s : State} (h : s.running = false) : LatchInv s :=
  fun hr => absurd (h.symm.trans hr) Bool.false_ne_true

theorem stoppedInv_of_running {s : State} (h : s.running = true) : StoppedInv s :=
  fun hs => absurd (hs.symm.trans h) Bool.false_ne_true

theorem stoppedInv_fatal (s : State) (c : FatalCause) : StoppedInv (s.fatal c) := fun _ => ⟨rfl, rfl⟩

theorem HostEffect.configurationInv {s u : State} (hs : ConfigurationInv s) (h : HostEffect s u) :
    ConfigurationInv u := by
  obtain ⟨hlatch, hstop, huser⟩ := hs
  cases h with
  | start _ hc => exact ⟨fun _ => ⟨hc, rfl, rfl, rfl⟩, stoppedInv_of_running rfl, huser⟩
  | stop hr => exact ⟨hlatch, stoppedInv_of_running hr, huser⟩
  | cfg n v hr hl =>
    cases n with
    | cr1 => exact ⟨latchInv_of_stopped hr, hstop, fun _ => hl rfl⟩
    | _ => exact ⟨latchInv_of_stopped hr, hstop, huser⟩
  | _ => exact ⟨hlatch, hstop, huser⟩

/-- Under a running engine the registers and latches stand still, so only the stop has to be looked at. -/
theorem configurationInv_of_sameSetup {s u : State} (hr : s.running = true) (hs : ConfigurationInv s)
    (h : SameSetup s u) (hu : StoppedInv u) : ConfigurationInv u := by
  obtain ⟨hlatch, _, huser⟩ := hs
  obtain ⟨hconf, hlocal, hip, hport⟩ := hlatch hr
  refine ⟨fun _ => ⟨?_, ?_, ?_, ?_⟩, hu, ?_⟩
  · simpa [State.configured, h.localAddr, h.userId, h.dataRate, h.serverIp, h.serverPort] using hconf
  · rw [h.sLocal, h.localAddr, hlocal]
  · rw [h.sServerIp, h.serverIp, hip]
  · rw [h.sServerPort, h.serverPort, hport]
  · rw [UserIdInv, h.userId]
    exact huser

theorem RuleEffect.stoppedInv {s u : State} (hr : s.running = true) (h : RuleEffect s u) : StoppedInv u := by
  cases h with
  | fatal c => exact stoppedInv_fatal s c
  | graceful _ => exact fun _ => ⟨rfl, rfl⟩
  | tick now =>
    have he : s.evictOffline.running = true := by
      rcases s.evictOffline_cases with ⟨_, e⟩ | ⟨_, _, e⟩ <;> rw [e] <;> exact hr
    rcases s.evictOffline.pollEarliest_cases now with ⟨_, e⟩ | ⟨_, _, ⟨_, e⟩ | ⟨_, e⟩⟩ <;> rw [State.tick, e]
    · exact stoppedInv_of_running he
    · exact stoppedInv_of_running he
    · exact stoppedInv_fatal _ _
  | _ => exact stoppedInv_of_running hr

theorem State.stageRegisterResponse_stoppedInv {s : State} (hr : s.running = true) (src : Addr) :
    StoppedInv (s.stageRegisterResponse src) := by
  rcases s.stageRegisterResponse_cases src with ⟨_, e⟩ | ⟨_, e⟩ <;> rw [e]
  · exact stoppedInv_of_running hr
  · exact stoppedInv_fatal _ _

theorem ProcessEffect.stoppedInv {s u : State} (hr : s.running = true) (h : ProcessEffect s u) : StoppedInv u := by
  cases h with
  | dropped e => exact stoppedInv_of_running hr
  | duplicate src r _ => exact State.stageRegisterResponse_stoppedInv (s := s.addLog _) hr src
  | created src r _ => exact State.stageRegisterResponse_stoppedInv (s := s.insertRecord r) hr src
  | response pkt rd r _ _ _ _ _ _ _ =>
    rcases s.stageDatagram_cases pkt rd with ⟨_, e⟩ | ⟨_, e⟩ <;> rw [e]
    · exact stoppedInv_of_running hr
    · exact stoppedInv_fatal _ _

/-- Clearing `processPending` leaves a cleared intent cleared. -/
theorem State.endProcess_stoppedInv {s : State} (hs : StoppedInv s) : StoppedInv s.endProcess := by
  intro hr
  obtain ⟨hintent, hctrl⟩ := hs hr
  exact ⟨by rw [State.endProcess_intent, hintent]; rfl, hctrl⟩

theorem configurationInv_kept : KeptByEffects ConfigurationInv where
  host hs h := h.configurationInv hs
  rule hr hs h := configurationInv_of_sameSetup hr hs h.sameSetup (h.stoppedInv hr)
  process hr hs h := configurationInv_of_sameSetup hr hs h.sameSetup (h.stoppedInv hr)
  endProcess hs := by
    obtain ⟨hlatch, hstop, huser⟩ := hs
    exact ⟨hlatch, State.endProcess_stoppedInv hstop, huser⟩
  armed hs := hs
  finish _ hs := hs
  retire hs := hs

/-! ### The buffers (R44, R211) -/

theorem buffersFit_setBuf {s : State} (hs : BuffersFit s) (b : BufIdx) {v : List Byte}
    (hv : v.length ≤ s.params.bufCap) : BuffersFit (s.setBuf b v) := by
  obtain ⟨hrrb, hrwb, hurb, huwb⟩ := hs
  cases b with
  | rrb => exact ⟨hv, hrwb, hurb, huwb⟩
  | rwb => exact ⟨hrrb, hv, hurb, huwb⟩
  | urb => exact ⟨hrrb, hrwb, hv, huwb⟩
  | uwb => exact ⟨hrrb, hrwb, hurb, hv⟩

theorem buffersFit_clearBuf {s : State} (hs : BuffersFit s) (b : BufIdx) : BuffersFit (s.setBuf b []) :=
  buffersFit_setBuf hs b (Nat.zero_le _)

theorem buffersFit_of_empty {s : State} (h : s.bufs = .empty) : BuffersFit s := by
  simp [BuffersFit, h, Buffers.empty]

theorem HostEffect.buffersFit {s u : State} (hs : BuffersFit s) (h : HostEffect s u) : BuffersFit u := by
  cases h with
  | write b v _ hv =>
    rcases hv with hv | rfl
    · exact buffersFit_setBuf hs b hv
    · exact buffersFit_clearBuf hs b
  | start _ _ => exact buffersFit_of_empty rfl
  | cfg n v _ _ => cases n <;> exact hs
  | _ => exact hs

theorem RuleEffect.buffersFit {s u : State} (hs : BuffersFit s) (h : RuleEffect s u) : BuffersFit u := by
  cases h with
  | fatal c => exact buffersFit_of_empty rfl
  | graceful _ => exact buffersFit_of_empty rfl
  | read v _ hv => exact buffersFit_setBuf hs .rrb hv
  | sent _ => exact buffersFit_clearBuf hs .rwb
  | udpSent _ => exact buffersFit_clearBuf hs .uwb
  | tick now =>
    have he : BuffersFit s.evictOffline := by
      rcases s.evictOffline_cases with ⟨_, e⟩ | ⟨_, _, e⟩ <;> rw [e] <;> exact hs
    rcases s.evictOffline.pollEarliest_cases now with ⟨_, e⟩ | ⟨_, _, ⟨hv, e⟩ | ⟨_, e⟩⟩ <;> rw [State.tick, e]
    · exact he
    · exact buffersFit_setBuf (s := s.evictOffline.updateRecord _ _) he .rwb (by simpa [serialize_length] using hv)
    · exact buffersFit_of_empty rfl
  | keep => exact hs

theorem State.stageRegisterResponse_buffersFit {s : State} (hs : BuffersFit s) (src : Addr) :
    BuffersFit (s.stageRegisterResponse src) := by
  rcases s.stageRegisterResponse_cases src with ⟨hv, e⟩ | ⟨_, e⟩ <;> rw [e]
  · exact buffersFit_setBuf (s := s.updateRecord _ _) hs .rwb (by simpa [serialize_length] using hv)
  · exact buffersFit_of_empty rfl

theorem ProcessEffect.buffersFit {s u : State} (hs : BuffersFit s) (h : ProcessEffect s u) : BuffersFit u := by
  cases h with
  | dropped e => exact hs
  | duplicate src r _ => exact State.stageRegisterResponse_buffersFit (s := s.addLog _) hs src
  | created src r _ => exact State.stageRegisterResponse_buffersFit (s := s.insertRecord r) hs src
  | response pkt rd r _ _ _ _ _ _ _ =>
    rcases s.stageDatagram_cases pkt rd with ⟨hv, e⟩ | ⟨_, e⟩ <;> rw [e]
    · exact buffersFit_setBuf (s := s.updateRecord _ _) hs .uwb hv
    · exact buffersFit_of_empty rfl

theorem buffersFit_kept : KeptByEffects BuffersFit where
  host hs h := h.buffersFit hs
  rule _ hs h := h.buffersFit hs
  process _ hs h := h.buffersFit hs
  endProcess hs := buffersFit_clearBuf hs .rrb
  armed hs := hs
  finish _ hs := hs
  retire hs := hs

/-! ### The output streams (R62) -/

theorem OutputsGrow.refl (s : State) : OutputsGrow s s := by constructor <;> simp

theorem outputsGrow_kept (s : State) : KeptByEffects (OutputsGrow s) where
  host hs h := hs.trans h.outputsGrow
  rule _ hs h := hs.trans h.outputsGrow
  process _ hs h := hs.trans h.outputsGrow
  endProcess hs := ⟨hs.radioTx, hs.udpTx, hs.log, hs.devcap⟩
  armed hs := ⟨hs.radioTx, hs.udpTx, hs.log, hs.devcap⟩
  finish _ hs := ⟨hs.radioTx, hs.udpTx, hs.log, hs.devcap⟩
  retire hs := ⟨hs.radioTx, hs.udpTx, hs.log, hs.devcap⟩

/-! ### Power-on reset (R67) -/

theorem State.resetWith_engStatus (p : Params) : (State.resetWith p).engStatus = 0 := by
  simp [State.engStatus, State.resetWith, ExitCause.code]

/-! ### The obligations -/

/-- Settles O32: each change of the registry keeps its invariants, and a step makes only such changes. -/
theorem everyStepKeepsRegistryInv : Obligations.EveryStepKeepsRegistryInv :=
  fun _ _ hs h => registryInv_kept.step hs h

/-- Settles O54: a start reads the latches from written registers, a write needs a stopped engine, a stop clears. -/
theorem everyStepKeepsConfigurationInv : Obligations.EveryStepKeepsConfigurationInv :=
  fun _ _ hs h => configurationInv_kept.step hs h

/-- Settles O16: every write is checked against `BUF_CAP` or empties its buffer. -/
theorem buffersNeverExceedCapacity : Obligations.BuffersNeverExceedCapacity :=
  fun _ _ hs h => buffersFit_kept.step hs h

/-- Settles O35: where `NEXT_SEQ` stands still, the kept invariant bounds every `seq` by it. -/
theorem nextSeqCountsCreations : Obligations.NextSeqCountsCreations := by
  intro s t hs h
  obtain ⟨_, _, _, hbelow⟩ := registryInv_kept.step hs h
  rcases step_seqAdvance h with hsame | hadvance
  · exact .inl ⟨hsame, fun q hq => hsame ▸ hbelow q hq⟩
  · exact .inr hadvance

/-- Settles O57: every effect appends to the streams or leaves them. -/
theorem outputStreamsOnlyGrow : Obligations.OutputStreamsOnlyGrow := by
  intro s t h
  obtain ⟨hradio, hudp, hlog, hdev⟩ := (outputsGrow_kept s).step (.refl s) h
  exact ⟨hradio, hudp, hlog, hdev⟩

/-- Settles O58: every value is the one `State.resetWith` writes, whatever the parameters. -/
theorem resetIsAsTheSpecSays : Obligations.ResetIsAsTheSpecSays := by
  intro p
  have hintent : Intent.clear.view = 0 := by decide
  exact ⟨rfl, rfl, rfl, rfl, rfl, rfl, rfl, rfl, State.resetWith_engStatus p, hintent,
    rfl, rfl, rfl, rfl, rfl, rfl, rfl⟩

/-- Settles O59: the reset state is stopped and empty, and none of its registers is written. -/
theorem resetMeetsTheInvariants : Obligations.ResetMeetsTheInvariants := by
  intro p
  have hregistry : RegistryInv (State.resetWith p) := by simp [RegistryInv, State.resetWith]
  exact ⟨buffersFit_of_empty rfl, hregistry, nofun, latchInv_of_stopped rfl, fun _ => ⟨rfl, rfl⟩, nofun⟩

end Sys2Proof.Machine
end

section
/-!
The statements about the command stream (spec/20_memory.md): a step consumes the oldest command and no command
changes the parameters (R111, R7), the read-only commands repeat (R108), and a running engine refuses mutation (R112).
-/

namespace Sys2Proof.Machine

open Sys2Proof.Claims

/-! ### The command stream (R111) -/

theorem Iterated.params_pending {s t : State} {o : WaitOutcome} (h : Iterated s o t) :
    t.params = s.params ∧ t.pending = s.pending := by
  obtain ⟨u, hu, ⟨_, rfl⟩ | ⟨_, _, v, hv, rfl⟩⟩ := h.cases
  · exact ⟨hu.sameSetup.params, hu.sameSetup.pending⟩
  · have hsetup : SameSetup s.armed v := hu.sameSetup.trans hv.sameSetup
    exact ⟨hsetup.params, hsetup.pending⟩

/-! ### The read-only commands (R108) -/

/-- How a read-only command can end (R203, R250, R303, R362). -/
def readOnlyStatuses : List Status := [.ok, .none, .badContent, .rangeError, .unconfigured, .illegalCommand]

theorem lookupPorts_status (o : Option SensorRecord) : (lookupPorts o).status ∈ readOnlyStatuses := by
  cases o with
  | none => decide
  | some r => exact List.mem_cons_self

theorem DecodeResult.ports_status (r : DecodeResult) : r.ports.status ∈ readOnlyStatuses := by
  cases r with
  | ok pkt => exact List.mem_cons_self
  | fail f => cases f <;> decide

/-- The command sets the result ports, to one of the statuses of a read-only command, and nothing else. -/
def OnlyAnswers (i : Instr) (s : State) : Prop :=
  ∃ r : ResultPorts, exec i s = .next (s.finish r) ∧ r.status ∈ readOnlyStatuses

theorem cksum_onlyAnswers (b : BufIdx) (s : State) : OnlyAnswers (.cksum b) s := by
  simp only [OnlyAnswers, exec, execCksum]
  split
  · exact ⟨_, rfl, by decide⟩
  · exact ⟨_, rfl, List.mem_cons_self⟩

theorem cfgRead_onlyAnswers (n : CrNum) (s : State) : OnlyAnswers (.cfgRead n) s := by
  simp only [OnlyAnswers, exec, execCfgRead]
  cases s.readCr n with
  | value v => exact ⟨_, rfl, List.mem_cons_self⟩
  | unwritten => exact ⟨_, rfl, by decide⟩
  | reserved => exact ⟨_, rfl, by decide⟩

theorem onlyAnswers_of_readOnly {i : Instr} (h : isReadOnly i = true) (s : State) : OnlyAnswers i s := by
  cases i with
  | cksum b => exact cksum_onlyAnswers b s
  | cfgRead n => exact cfgRead_onlyAnswers n s
  | decode b => exact ⟨_, rfl, DecodeResult.ports_status _⟩
  | regFind | regEarliest | regOffline => exact ⟨_, rfl, lookupPorts_status _⟩
  | bufLen b | bufRead b | regSize | regList => exact ⟨_, rfl, List.mem_cons_self⟩
  | _ => cases h

/-- A read-only command reads no result port. -/
theorem exec_finish_of_readOnly {i : Instr} (h : isReadOnly i = true) (s : State) (r : ResultPorts) :
    exec i (s.finish r) = exec i s := by
  cases i with
  | cksum b | cfgRead n | decode b | regFind | regEarliest | regOffline | bufLen b | bufRead b | regSize | regList => rfl
  | _ => cases h

/-! ### Stop-the-world (R112) -/

theorem isMutating_cfgWrite (n : CrNum) : isMutating (.cfgWrite n) = writableCr n := by cases n <;> rfl

theorem execCfgWrite_of_not_writable {n : CrNum} (h : writableCr n = false) (s : State) :
    execCfgWrite n s = .next (s.raise .illegalCommand) := by simp [execCfgWrite, h]

theorem encodeInto_of_running {s : State} (hr : s.running = true) (b : BufIdx) (cmd : Byte) (rd : Option Reading) :
    encodeInto s b cmd rd = .next (s.raise .busy) := whenStopped_of_running hr _

/-- A running engine refuses every mutating command: the guard comes before the command. -/
theorem exec_of_mutating_of_running {i : Instr} (h : isMutating i = true) {s : State} (hr : s.running = true) :
    exec i s = .next (s.raise .busy) := by
  cases i with
  | cfgWrite n =>
    rw [isMutating_cfgWrite] at h
    exact (if_pos h).trans (whenStopped_of_running hr _)
  | bufAppend b | bufReset b => simp [exec, execBufAppend, execBufReset, hr]
  | encRreq b | encRrsp b | encDreq b | encDrsp b => exact encodeInto_of_running hr b _ _
  | regAdd | regRemove | regPollreq | regPollrsp =>
    simp [exec, execRegAdd, execRegRemove, execRegPollreq, execRegPollrsp, hr]
  | engStart => simp [exec, execEngStart, hr]
  | _ => cases h

/-- The commands the stop-the-world rule lets through. -/
theorem not_mutating_cases {i : Instr} (h : isMutating i = false) :
    isReadOnly i = true ∨ i = .engStop ∨ (∃ o, i = iterOf o) ∨ ∃ n, i = .cfgWrite n ∧ writableCr n = false := by
  cases i with
  | cksum b | cfgRead n | decode b | regFind | regEarliest | regOffline | bufLen b | bufRead b | regSize | regList =>
    exact .inl rfl
  | engStop => exact .inr (.inl rfl)
  | engIterHarderr => exact .inr (.inr (.inl ⟨.hardErr, rfl⟩))
  | engIterIntr => exact .inr (.inr (.inl ⟨.intr, rfl⟩))
  | engIterTimeout => exact .inr (.inr (.inl ⟨.timeout, rfl⟩))
  | engIterCtrl => exact .inr (.inr (.inl ⟨.ctrl, rfl⟩))
  | engIterRxrdy => exact .inr (.inr (.inl ⟨.rxRdy, rfl⟩))
  | engIterTxrdy => exact .inr (.inr (.inl ⟨.txRdy, rfl⟩))
  | engIterUdprdy => exact .inr (.inr (.inl ⟨.udpRdy, rfl⟩))
  | cfgWrite n => exact .inr (.inr (.inr ⟨n, rfl, isMutating_cfgWrite n ▸ h⟩))
  | _ => cases h

/-- How a loop iteration can end (R364). -/
theorem exec_iterOf_status {o : WaitOutcome} {s t : State} (h : exec (iterOf o) s = .next t) :
    t.result.status ∈ [Status.ok, .exited, .notRunning, .illegalCommand] := by
  rw [exec_iterOf] at h
  rcases engIter_eq_next h with ⟨_, rfl⟩ | ⟨_, _, rfl⟩ | ⟨_, _, u, _, rfl⟩
  · simp
  · simp
  · simp only [State.endIteration, State.finish_result]
    cases u.running <;> decide

theorem execEngStop_status {s t : State} (h : execEngStop s = .next t) :
    t.result.status ∈ [Status.ok, .notRunning] := by
  cases hr : s.running with
  | false =>
    rw [execEngStop, whenRunning_of_stopped hr] at h
    cases h
    simp
  | true =>
    rw [execEngStop, whenRunning_of_running hr] at h
    cases h
    simp

/-- A command outside the guard answers `BUSY` in no state. -/
theorem exec_not_busy {i : Instr} (hm : isMutating i = false) {s t : State} (h : exec i s = .next t) :
    t.result.status ≠ .busy := by
  rcases not_mutating_cases hm with hro | rfl | ⟨o, rfl⟩ | ⟨n, rfl, hn⟩
  · obtain ⟨r, he, hr⟩ := onlyAnswers_of_readOnly hro s
    cases he.symm.trans h
    exact ne_of_mem_of_not_mem hr (by decide)
  · exact ne_of_mem_of_not_mem (execEngStop_status h) (by decide)
  · exact ne_of_mem_of_not_mem (exec_iterOf_status h) (by decide)
  · cases (execCfgWrite_of_not_writable hn s).symm.trans h
    simp

/-! ### The obligations -/

/-- Settles O8: the effects of a command keep parameters and stream, and `State.retire` drops the oldest command. -/
theorem commandsAreConsumedInOrder : Obligations.CommandsAreConsumedInOrder := by
  intro s t h
  rcases step_cases h with ⟨hidle, rfl⟩ | ⟨_, _, _, ⟨u, hu, he⟩ | ⟨_, u, _, hu, rfl⟩⟩
  · exact ⟨by rw [hidle]; rfl, rfl⟩
  · obtain ⟨hparams, hpending⟩ := hu.params_pending
    rw [he]
    exact ⟨congrArg List.tail hpending, hparams⟩
  · obtain ⟨hparams, hpending⟩ := hu.params_pending
    exact ⟨congrArg List.tail hpending, hparams⟩

/-- Settles O15: a read-only command only sets the result ports, which it does not read. -/
theorem readOnlyCommandsChangeNoState : Obligations.ReadOnlyCommandsChangeNoState := by
  intro i s hro
  obtain ⟨r, he, _⟩ := onlyAnswers_of_readOnly hro s
  exact ⟨s.finish r, he, rfl, (exec_finish_of_readOnly hro s r).trans he⟩

/-- Settles O40: the mutating commands, and only they, stand behind the stop-the-world guard. -/
theorem runningEngineRefusesMutation : Obligations.RunningEngineRefusesMutation :=
  fun _ _ hr => ⟨fun hm => exec_of_mutating_of_running hm hr, fun hm _ h => exec_not_busy hm h⟩

end Sys2Proof.Machine
end

section
/-!
The statements about the command word (spec/30_encoding.md): decoder and encoder are inverse, the decodable and the legal
words, and what a step does with a word. A word is its three fields (`packWord_fields`); the encoder's words are described
by the classes of R141, and decodable, tabulated and legal words are each compared with them.
-/

namespace Sys2Proof

open Sys2Proof.Claims

/-! ### The fields of a word (R140) -/

@[simp] theorem opcOf_packWord (o : BitVec 8) (b : BitVec 2) (s : BitVec 6) : opcOf (packWord o b s) = o :=
  (BitVec.extractLsb'_append_eq_of_le (by decide)).trans BitVec.extractLsb'_append_eq_left

@[simp] theorem bufOf_packWord (o : BitVec 8) (b : BitVec 2) (s : BitVec 6) : bufOf (packWord o b s) = b :=
  (BitVec.extractLsb'_append_eq_of_le (Nat.le_refl 6)).trans BitVec.extractLsb'_append_eq_right

@[simp] theorem subOf_packWord (o : BitVec 8) (b : BitVec 2) (s : BitVec 6) : subOf (packWord o b s) = s :=
  BitVec.extractLsb'_append_eq_right

theorem packWord_fields (w : CmdWord) : packWord (opcOf w) (bufOf w) (subOf w) = w :=
  calc packWord (opcOf w) (bufOf w) (subOf w)
    _ = w.extractLsb' 6 10 ++ subOf w :=
      congrArg (· ++ subOf w) (BitVec.extractLsb'_append_extractLsb'_eq_extractLsb' rfl)
    _ = w := BitVec.extractLsb'_append_extractLsb'

theorem packWord_and (o o' : BitVec 8) (b b' : BitVec 2) (s s' : BitVec 6) :
    packWord o b s &&& packWord o' b' s' = packWord (o &&& o') (b &&& b') (s &&& s') :=
  BitVec.and_append.trans (congrArg (· ++ (s &&& s')) BitVec.and_append)

theorem packWord_eq_iff {o : BitVec 8} {b : BitVec 2} {s : BitVec 6} {w : CmdWord} :
    packWord o b s = w ↔ opcOf w = o ∧ bufOf w = b ∧ subOf w = s := by
  constructor
  · rintro rfl
    simp
  · rintro ⟨rfl, rfl, rfl⟩
    exact packWord_fields w

theorem BufIdx.ofBits_toBits (b : BufIdx) : BufIdx.ofBits b.toBits = b := by cases b <;> rfl

theorem BufIdx.toBits_ofBits (v : BitVec 2) : (BufIdx.ofBits v).toBits = v := by revert v; decide

theorem CrNum.ofBits_toBits (n : CrNum) : CrNum.ofBits n.toBits = n := by cases n <;> rfl

theorem CrNum.toBits_ofBits (v : BitVec 4) : (CrNum.ofBits v).toBits = v := by revert v; decide

/-! ### Decoding what the encoder wrote -/

@[simp] theorem decodeBufClass_packWord (mk : BufIdx → Instr) (o : BitVec 8) (b : BufIdx) :
    decodeBufClass mk (packWord o b.toBits 0) = .ok (mk b) := by
  simp [decodeBufClass, BufIdx.ofBits_toBits]

@[simp] theorem decodePlain_packWord (i : Instr) (o : BitVec 8) : decodePlain i (packWord o 0 0) = .ok i := by
  simp [decodePlain]

@[simp] theorem decodeCfg_packWord (mk : CrNum → Instr) (o : BitVec 8) (n : CrNum) :
    decodeCfg mk (packWord o 0 (n.toBits.setWidth 6)) = .ok (mk n) := by
  have hhigh : ∀ v : BitVec 4, (v.setWidth 6).extractLsb' 4 2 = 0 := by decide
  have hlow : ∀ v : BitVec 4, (v.setWidth 6).extractLsb' 0 4 = v := by decide
  simp [decodeCfg, hhigh, hlow, CrNum.ofBits_toBits]


/-- Settles O1: the opcode selects the decoder of the instruction's class, which reads back the operand field. -/
theorem decodeOfEncodeIsTheInstruction : Obligations.DecodeOfEncodeIsTheInstruction := by
  intro i
  cases i with
  | cksum b | bufAppend b | bufReset b | bufLen b | bufRead b
  | encRreq b | encRrsp b | encDreq b | encDrsp b | decode b =>
    simp only [encode, decodeWord, opcOf_packWord]
    exact decodeBufClass_packWord _ _ b
  | regFind | regAdd | regRemove | regEarliest | regOffline | regPollreq | regPollrsp | regSize | regList
  | engStart | engStop => exact decodePlain_packWord _ _
  | cfgRead n | cfgWrite n =>
    simp only [encode, decodeWord, opcOf_packWord]
    exact decodeCfg_packWord _ _ n
  | engIterHarderr | engIterIntr | engIterTimeout | engIterCtrl | engIterRxrdy | engIterTxrdy | engIterUdprdy => rfl

/-! ### Encoding what the decoder read -/

theorem encode_of_decodeBufClass {mk : BufIdx → Instr} {o : BitVec 8} {w : CmdWord} {i : Instr}
    (h : decodeBufClass mk w = .ok i) (hmk : ∀ b, encode (mk b) = packWord o b.toBits 0)
    (ho : (opcOf w).toNat = o.toNat) : encode i = w := by
  unfold decodeBufClass at h
  split at h
  · next hs =>
    cases h
    rw [hmk, packWord_eq_iff, BufIdx.toBits_ofBits]
    exact ⟨BitVec.eq_of_toNat_eq ho, rfl, hs⟩
  · cases h

theorem encode_of_decodePlain {j : Instr} {o : BitVec 8} {w : CmdWord} {i : Instr}
    (h : decodePlain j w = .ok i) (hj : encode j = packWord o 0 0) (ho : (opcOf w).toNat = o.toNat) :
    encode i = w := by
  unfold decodePlain at h
  split at h
  · next hz =>
    cases h
    rw [hj, packWord_eq_iff]
    exact ⟨BitVec.eq_of_toNat_eq ho, hz⟩
  · cases h

/-- A `SUB` field whose upper bits are zero is its lower four bits. -/
theorem setWidth_low4 {s : BitVec 6} (h : s.extractLsb' 4 2 = 0) : (s.extractLsb' 0 4).setWidth 6 = s := by
  revert s; decide

theorem encode_of_decodeCfg {mk : CrNum → Instr} {o : BitVec 8} {w : CmdWord} {i : Instr}
    (h : decodeCfg mk w = .ok i) (hmk : ∀ n, encode (mk n) = packWord o 0 (n.toBits.setWidth 6))
    (ho : (opcOf w).toNat = o.toNat) : encode i = w := by
  unfold decodeCfg at h
  split at h
  · next hz =>
    obtain ⟨hb, hs⟩ := hz
    cases h
    rw [hmk, packWord_eq_iff, CrNum.toBits_ofBits]
    exact ⟨BitVec.eq_of_toNat_eq ho, hb, (setWidth_low4 hs).symm⟩
  · cases h

theorem sub_eq_of_outcome {s t : BitVec 6} (h : s.extractLsb' 3 3 = 0)
    (ht : (s.extractLsb' 0 3).toNat = t.toNat) : s = t := by
  have hlow : ∀ s : BitVec 6, s.extractLsb' 3 3 = 0 → s.toNat = (s.extractLsb' 0 3).toNat := by decide
  exact BitVec.eq_of_toNat_eq ((hlow s h).trans ht)

theorem encode_of_decodeIter {w : CmdWord} {i : Instr} (h : decodeIter w = .ok i) (ho : opcOf w = 0x34) :
    encode i = w := by
  unfold decodeIter at h
  split at h
  · next hz =>
    obtain ⟨hb, hs⟩ := hz
    split at h <;> cases h
    all_goals exact packWord_eq_iff.mpr ⟨ho, hb, sub_eq_of_outcome hs ‹_›⟩
  · cases h

/-- Settles O2: the decoder of each class looks at all three fields, and the encoder writes the same three. -/
theorem encodeOfDecodeIsTheWord : Obligations.EncodeOfDecodeIsTheWord := by
  intro w i h
  unfold decodeWord at h
  split at h
  iterate 10 next ho => exact encode_of_decodeBufClass h (fun _ => rfl) ho
  iterate 11 next ho => exact encode_of_decodePlain h rfl ho
  iterate 2 next ho => exact encode_of_decodeCfg h (fun _ => rfl) ho
  · next ho => exact encode_of_decodeIter h (BitVec.eq_of_toNat_eq ho)
  · cases h

/-- A word decodes to an instruction exactly when it is the instruction's word. -/
theorem decodeWord_eq_ok_iff {w : CmdWord} {i : Instr} : decodeWord w = .ok i ↔ encode i = w :=
  ⟨encodeOfDecodeIsTheWord w i, fun h => h ▸ decodeOfEncodeIsTheInstruction i⟩

/-! ### The words of each class (R141, R142) -/

/-- The operations of the buffer and the codec class. -/
def bufOpcodes : List (BitVec 8) := [0x01, 0x02, 0x03, 0x04, 0x05, 0x10, 0x11, 0x12, 0x13, 0x14]

/-- The operations of the registry class, `ENG_START` and `ENG_STOP`. -/
def plainOpcodes : List (BitVec 8) := [0x20, 0x21, 0x22, 0x23, 0x24, 0x25, 0x26, 0x27, 0x28, 0x30, 0x31]

/-- `CFG_READ` and `CFG_WRITE`. -/
def cfgOpcodes : List (BitVec 8) := [0x32, 0x33]

theorem exists_encode_bufClass {o : BitVec 8} (h : o ∈ bufOpcodes) (b : BitVec 2) :
    ∃ i : Instr, encode i = packWord o b 0 ∧ i.wellFormed = true := by
  rw [← BufIdx.toBits_ofBits b]
  simp only [bufOpcodes, List.mem_cons, List.not_mem_nil, or_false] at h
  rcases h with rfl | rfl | rfl | rfl | rfl | rfl | rfl | rfl | rfl | rfl
  exacts [⟨.cksum _, rfl, rfl⟩, ⟨.bufAppend _, rfl, rfl⟩, ⟨.bufReset _, rfl, rfl⟩, ⟨.bufLen _, rfl, rfl⟩,
    ⟨.bufRead _, rfl, rfl⟩, ⟨.encRreq _, rfl, rfl⟩, ⟨.encRrsp _, rfl, rfl⟩, ⟨.encDreq _, rfl, rfl⟩,
    ⟨.encDrsp _, rfl, rfl⟩, ⟨.decode _, rfl, rfl⟩]

theorem exists_encode_plain {o : BitVec 8} (h : o ∈ plainOpcodes) :
    ∃ i : Instr, encode i = packWord o 0 0 ∧ i.wellFormed = true := by
  simp only [plainOpcodes, List.mem_cons, List.not_mem_nil, or_false] at h
  rcases h with rfl | rfl | rfl | rfl | rfl | rfl | rfl | rfl | rfl | rfl | rfl
  exacts [⟨.regFind, rfl, rfl⟩, ⟨.regAdd, rfl, rfl⟩, ⟨.regRemove, rfl, rfl⟩, ⟨.regEarliest, rfl, rfl⟩,
    ⟨.regOffline, rfl, rfl⟩, ⟨.regPollreq, rfl, rfl⟩, ⟨.regPollrsp, rfl, rfl⟩, ⟨.regSize, rfl, rfl⟩,
    ⟨.regList, rfl, rfl⟩, ⟨.engStart, rfl, rfl⟩, ⟨.engStop, rfl, rfl⟩]

theorem exists_encode_cfg {o : BitVec 8} (h : o ∈ cfgOpcodes) (n : CrNum) :
    ∃ i : Instr, encode i = packWord o 0 (n.toBits.setWidth 6) ∧ i.wellFormed = !n.reserved := by
  simp only [cfgOpcodes, List.mem_cons, List.not_mem_nil, or_false] at h
  rcases h with rfl | rfl
  exacts [⟨.cfgRead n, rfl, rfl⟩, ⟨.cfgWrite n, rfl, rfl⟩]

theorem exists_encode_iter {s : BitVec 6} (h : s ≤ 6) :
    ∃ i : Instr, encode i = packWord 0x34 0 s ∧ i.wellFormed = true := by
  have hs : s = 0 ∨ s = 1 ∨ s = 2 ∨ s = 3 ∨ s = 4 ∨ s = 5 ∨ s = 6 := by revert s; decide
  rcases hs with rfl | rfl | rfl | rfl | rfl | rfl | rfl
  exacts [⟨.engIterHarderr, rfl, rfl⟩, ⟨.engIterIntr, rfl, rfl⟩, ⟨.engIterTimeout, rfl, rfl⟩,
    ⟨.engIterCtrl, rfl, rfl⟩, ⟨.engIterRxrdy, rfl, rfl⟩, ⟨.engIterTxrdy, rfl, rfl⟩, ⟨.engIterUdprdy, rfl, rfl⟩]

/-! ### The opcode table -/

theorem and_bufMask {o : BitVec 8} {w : CmdWord} :
    w &&& 0xFF3F = packWord o 0 0 ↔ opcOf w = o ∧ subOf w = 0 := by
  have hm : w &&& 0xFF3F = packWord (opcOf w) 0#2 (subOf w) :=
    calc w &&& 0xFF3F
      _ = packWord (opcOf w) (bufOf w) (subOf w) &&& packWord (BitVec.allOnes 8) 0#2 (BitVec.allOnes 6) :=
        congrArg (· &&& 0xFF3F) (packWord_fields w).symm
      _ = packWord (opcOf w) 0#2 (subOf w) := by
        rw [packWord_and, BitVec.and_allOnes, BitVec.and_zero, BitVec.and_allOnes]
  rw [hm, packWord_eq_iff]
  simp [eq_comm]

theorem and_cfgMask {o : BitVec 8} {w : CmdWord} :
    w &&& 0xFFF0 = packWord o 0 0 ↔ opcOf w = o ∧ bufOf w = 0 ∧ (subOf w).extractLsb' 4 2 = 0 := by
  have hm : w &&& 0xFFF0 = packWord (opcOf w) (bufOf w) (subOf w &&& 0x30) :=
    calc w &&& 0xFFF0
      _ = packWord (opcOf w) (bufOf w) (subOf w) &&& packWord (BitVec.allOnes 8) (BitVec.allOnes 2) 0x30 :=
        congrArg (· &&& 0xFFF0) (packWord_fields w).symm
      _ = packWord (opcOf w) (bufOf w) (subOf w &&& 0x30) := by
        rw [packWord_and, BitVec.and_allOnes, BitVec.and_allOnes]
  have hs : ∀ s : BitVec 6, s &&& 0x30 = 0 ↔ s.extractLsb' 4 2 = 0 := by decide
  rw [hm, packWord_eq_iff, ← hs]
  simp [eq_comm]

theorem exists_crNum_of_low4 {s : BitVec 6} (h : s.extractLsb' 4 2 = 0) : ∃ n : CrNum, s = n.toBits.setWidth 6 :=
  ⟨.ofBits (s.extractLsb' 0 4), by rw [CrNum.toBits_ofBits, setWidth_low4 h]⟩

/-- The four groups of rows: one per class of R141, with the class's mask. -/
theorem opcodeRows_eq :
    opcodeRows = bufOpcodes.map (⟨0xFF3F, packWord · 0 0⟩) ++ plainOpcodes.map (⟨0xFFFF, packWord · 0 0⟩) ++
      cfgOpcodes.map (⟨0xFFF0, packWord · 0 0⟩) ++
      ([0, 1, 2, 3, 4, 5, 6] : List (BitVec 6)).map (⟨0xFFFF, packWord 0x34 0 ·⟩) := rfl

theorem exists_encode_of_row {r : OpcodeRow} (hr : r ∈ opcodeRows) {w : CmdWord} (h : w &&& r.mask = r.pattern) :
    ∃ i : Instr, encode i = w := by
  have hfull : w &&& 0xFFFF = w := BitVec.and_allOnes
  simp only [opcodeRows_eq, List.mem_append, List.mem_map] at hr
  rcases hr with ((⟨o, ho, rfl⟩ | ⟨o, ho, rfl⟩) | ⟨o, ho, rfl⟩) | ⟨s, hs, rfl⟩
  · obtain ⟨rfl, hsub⟩ := and_bufMask.mp h
    obtain ⟨i, hi, _⟩ := exists_encode_bufClass ho (bufOf w)
    exact ⟨i, hi.trans (packWord_eq_iff.mpr ⟨rfl, rfl, hsub⟩)⟩
  · obtain ⟨i, hi, _⟩ := exists_encode_plain ho
    exact ⟨i, hi.trans (h.symm.trans hfull)⟩
  · obtain ⟨rfl, hbuf, hsub⟩ := and_cfgMask.mp h
    obtain ⟨n, hn⟩ := exists_crNum_of_low4 hsub
    obtain ⟨i, hi, _⟩ := exists_encode_cfg ho n
    exact ⟨i, hi.trans (packWord_eq_iff.mpr ⟨rfl, hbuf, hn⟩)⟩
  · have hle : ∀ t ∈ ([0, 1, 2, 3, 4, 5, 6] : List (BitVec 6)), t ≤ 6 := by decide
    obtain ⟨i, hi, _⟩ := exists_encode_iter (hle s hs)
    exact ⟨i, hi.trans (h.symm.trans hfull)⟩

theorem encode_matches_row : ∀ i : Instr, Laws.TableRow.Statement i
  | .cksum b => Laws.TableRow.cksum b
  | .bufAppend b => Laws.TableRow.bufAppend b
  | .bufReset b => Laws.TableRow.bufReset b
  | .bufLen b => Laws.TableRow.bufLen b
  | .bufRead b => Laws.TableRow.bufRead b
  | .encRreq b => Laws.TableRow.encRreq b
  | .encRrsp b => Laws.TableRow.encRrsp b
  | .encDreq b => Laws.TableRow.encDreq b
  | .encDrsp b => Laws.TableRow.encDrsp b
  | .decode b => Laws.TableRow.decode b
  | .regFind => Laws.TableRow.regFind
  | .regAdd => Laws.TableRow.regAdd
  | .regRemove => Laws.TableRow.regRemove
  | .regEarliest => Laws.TableRow.regEarliest
  | .regOffline => Laws.TableRow.regOffline
  | .regPollreq => Laws.TableRow.regPollreq
  | .regPollrsp => Laws.TableRow.regPollrsp
  | .regSize => Laws.TableRow.regSize
  | .regList => Laws.TableRow.regList
  | .engStart => Laws.TableRow.engStart
  | .engStop => Laws.TableRow.engStop
  | .cfgRead n => Laws.TableRow.cfgRead n
  | .cfgWrite n => Laws.TableRow.cfgWrite n
  | .engIterHarderr => Laws.TableRow.engIterHarderr
  | .engIterIntr => Laws.TableRow.engIterIntr
  | .engIterTimeout => Laws.TableRow.engIterTimeout
  | .engIterCtrl => Laws.TableRow.engIterCtrl
  | .engIterRxrdy => Laws.TableRow.engIterRxrdy
  | .engIterTxrdy => Laws.TableRow.engIterTxrdy
  | .engIterUdprdy => Laws.TableRow.engIterUdprdy

theorem row_mem_opcodeRows (i : Instr) : ⟨(Laws.TableRow.row i).1, (Laws.TableRow.row i).2⟩ ∈ opcodeRows := by
  cases i <;> simp [opcodeRows, Laws.TableRow.row]

/-- Any two rows ask for different values of a bit that both masks keep. -/
theorem opcodeRows_disagree :
    opcodeRows.Pairwise fun r q => r.pattern &&& q.mask ≠ q.pattern &&& r.mask := by decide

/-- Settles O4: the encoder's words are those of the rows, and rows that disagree share no word. -/
theorem decodableWordsAreTheOpcodeTable : Obligations.DecodableWordsAreTheOpcodeTable := by
  refine ⟨fun w => ⟨?_, ?_⟩, opcodeRows_disagree.imp ?_⟩
  · rintro ⟨i, h⟩
    obtain rfl := decodeWord_eq_ok_iff.mp h
    exact ⟨_, row_mem_opcodeRows i, encode_matches_row i⟩
  · rintro ⟨r, hr, h⟩
    obtain ⟨i, rfl⟩ := exists_encode_of_row hr h
    exact ⟨i, decodeWord_eq_ok_iff.mpr rfl⟩
  · rintro r q hne w ⟨hr, hq⟩
    apply hne
    rw [← hr, ← hq, BitVec.and_assoc, BitVec.and_assoc, BitVec.and_comm r.mask]

/-! ### The legal words -/

theorem legalWord_iff {w : CmdWord} :
    LegalWord w ↔
      (opcOf w ∈ bufOpcodes ∧ subOf w = 0) ∨ (opcOf w ∈ plainOpcodes ∧ bufOf w = 0 ∧ subOf w = 0) ∨
        (opcOf w ∈ cfgOpcodes ∧ bufOf w = 0 ∧ subOf w ≤ 15 ∧ subOf w ∉ [5, 6, 7, 12, 13, 14, 15]) ∨
        (opcOf w = 0x34 ∧ bufOf w = 0 ∧ subOf w ≤ 6) := Iff.rfl

theorem legalWord_packWord {o : BitVec 8} {b : BitVec 2} {s : BitVec 6} :
    LegalWord (packWord o b s) ↔
      (o ∈ bufOpcodes ∧ s = 0) ∨ (o ∈ plainOpcodes ∧ b = 0 ∧ s = 0) ∨
        (o ∈ cfgOpcodes ∧ b = 0 ∧ s ≤ 15 ∧ s ∉ [5, 6, 7, 12, 13, 14, 15]) ∨ (o = 0x34 ∧ b = 0 ∧ s ≤ 6) := by
  rw [legalWord_iff, opcOf_packWord, bufOf_packWord, subOf_packWord]

/-- A `SUB` field that names no reserved register, as a register. -/
theorem exists_unreserved_crNum {s : BitVec 6} (h : s ≤ 15) (hr : s ∉ [5, 6, 7, 12, 13, 14, 15]) :
    ∃ n : CrNum, s = n.toBits.setWidth 6 ∧ n.reserved = false := by
  have hlow : ∀ s : BitVec 6, s ≤ 15 → s.extractLsb' 4 2 = 0 := by decide
  obtain ⟨n, rfl⟩ := exists_crNum_of_low4 (hlow s h)
  refine ⟨n, rfl, ?_⟩
  cases n with
  | cr5 | cr6 | cr7 | cr12 | cr13 | cr14 | cr15 => exact absurd (by decide) hr
  | _ => rfl

theorem exists_encode_of_legalWord {w : CmdWord} (h : LegalWord w) :
    ∃ i : Instr, encode i = w ∧ i.wellFormed = true := by
  rw [← packWord_fields w, legalWord_packWord] at h
  rw [← packWord_fields w]
  rcases h with ⟨ho, hs⟩ | ⟨ho, hb, hs⟩ | ⟨ho, hb, hle, hr⟩ | ⟨ho, hb, hle⟩
  · rw [hs]
    exact exists_encode_bufClass ho _
  · rw [hb, hs]
    exact exists_encode_plain ho
  · obtain ⟨n, hn, hu⟩ := exists_unreserved_crNum hle hr
    obtain ⟨i, hi, hwf⟩ := exists_encode_cfg ho n
    exact ⟨i, by rw [hi, hb, hn], by rw [hwf, hu]; rfl⟩
  · rw [ho, hb]
    exact exists_encode_iter hle

theorem legalWord_encode {i : Instr} (h : i.wellFormed = true) : LegalWord (encode i) := by
  cases i with
  | cksum b | bufAppend b | bufReset b | bufLen b | bufRead b
  | encRreq b | encRrsp b | encDreq b | encDrsp b | decode b =>
    exact legalWord_packWord.mpr (.inl ⟨by decide, rfl⟩)
  | regFind | regAdd | regRemove | regEarliest | regOffline | regPollreq | regPollrsp | regSize | regList
  | engStart | engStop => exact legalWord_packWord.mpr (.inr (.inl ⟨by decide, rfl, rfl⟩))
  | cfgRead n | cfgWrite n =>
    refine legalWord_packWord.mpr (.inr (.inr (.inl ⟨by decide, rfl, ?_⟩)))
    revert h
    cases n <;> decide
  | engIterHarderr | engIterIntr | engIterTimeout | engIterCtrl | engIterRxrdy | engIterTxrdy | engIterUdprdy =>
    exact legalWord_packWord.mpr (.inr (.inr (.inr ⟨rfl, rfl, by decide⟩)))

/-- Settles O5: by the field rules of each class, a legal word is the word of a well-formed instruction. -/
theorem legalWordsDecodeToWellFormed : Obligations.LegalWordsDecodeToWellFormed := by
  intro w
  constructor
  · intro h
    obtain ⟨i, rfl, hwf⟩ := exists_encode_of_legalWord h
    exact ⟨i, decodeWord_eq_ok_iff.mpr rfl, hwf⟩
  · rintro ⟨i, h, hwf⟩
    obtain rfl := decodeWord_eq_ok_iff.mp h
    exact legalWord_encode hwf

/-- Settles O3: the words of instructions decode by the round trip; of the last three, each breaks another field rule. -/
theorem wordsOfTheSpecDecode : Obligations.WordsOfTheSpecDecode :=
  have roundTrip := decodeOfEncodeIsTheInstruction
  ⟨roundTrip (.encDreq .rwb), roundTrip (.encDrsp .uwb), roundTrip (.decode .rrb), roundTrip (.cfgRead .cr8),
    roundTrip (.cfgWrite .cr4), roundTrip .engIterTimeout, rfl, rfl, rfl⟩

end Sys2Proof

namespace Sys2Proof.Machine

/-! ### What a step does with a word -/

theorem step_of_decode {s : State} {c : Command} {rest : List Command} (hp : s.pending = c :: rest) {i : Instr}
    (hd : decodeWord c.word = .ok i) : step s = andThen (exec i s) fun t => .next t.retire := by
  simp [step, hp, hd]

theorem step_of_undecodable {s : State} {c : Command} {rest : List Command} (hp : s.pending = c :: rest)
    {e : DecodeError} (hd : decodeWord c.word = .error e) : step s = .next (s.raise .illegalCommand).retire := by
  simp [step, hp, hd, execIllegal]

theorem readCr_of_reserved {n : CrNum} (h : n.reserved = true) (s : State) : s.readCr n = .reserved := by
  cases n with
  | cr5 | cr6 | cr7 | cr12 | cr13 | cr14 | cr15 => rfl
  | _ => cases h

theorem writableCr_of_reserved {n : CrNum} (h : n.reserved = true) : writableCr n = false := by
  cases n with
  | cr5 | cr6 | cr7 | cr12 | cr13 | cr14 | cr15 => rfl
  | _ => cases h

/-- Only a reserved register number makes an instruction ill-formed, and both commands that name one refuse it. -/
theorem exec_of_illFormed {i : Instr} (h : i.wellFormed = false) (s : State) :
    exec i s = .next (s.raise .illegalCommand) := by
  cases i with
  | cfgRead n =>
    have hr : n.reserved = true := by simpa [Instr.wellFormed] using h
    simp [exec, execCfgRead, readCr_of_reserved hr]
  | cfgWrite n =>
    have hr : n.reserved = true := by simpa [Instr.wellFormed] using h
    exact execCfgWrite_of_not_writable (writableCr_of_reserved hr) s
  | _ => cases h

theorem exec_pending {i : Instr} {s t : State} (h : exec i s = .next t) : t.pending = s.pending := by
  rcases exec_cases h with ⟨u, hu, he⟩ | ⟨o, _, ho⟩
  · rw [he]
    exact hu.params_pending.2
  · exact ho.params_pending.2

theorem andThen_congr {o : Out} {k k' : State → Out} (h : ∀ t, o = .next t → k t = k' t) :
    andThen o k = andThen o k' := by
  cases o with
  | next t => exact h t rfl
  | fault _ | refused _ => rfl

/-- Settles O6: an illegal word decodes to nothing or to an ill-formed instruction, and both are refused. -/
theorem illegalWordIsRefused : Obligations.IllegalWordIsRefused := by
  intro s c rest hp hill
  have hraise : (s.raise .illegalCommand).retire =
      { s with pending := rest, result := { status := .illegalCommand } } := by
    simp [State.retire, State.raise, State.finish, hp]
  rw [← hraise]
  cases hd : decodeWord c.word with
  | error e => exact step_of_undecodable hp hd
  | ok i =>
    have hwf : i.wellFormed = false :=
      Bool.eq_false_iff.mpr fun h => hill ((legalWordsDecodeToWellFormed c.word).mpr ⟨i, hd, h⟩)
    rw [step_of_decode hp hd, exec_of_illFormed hwf, andThen_next]

/-- Settles O7: no execution touches the command stream, so what retires is the command that ran. -/
theorem stepRunsTheDecodedCommand : Obligations.StepRunsTheDecodedCommand := by
  intro s c rest i hp hd
  rw [step_of_decode hp hd]
  refine andThen_congr fun t ht => ?_
  rw [State.retire, exec_pending ht, hp, List.tail_cons]

end Sys2Proof.Machine
end

section
/-!
The statements about the checksum and the byte buffers (spec/40_checksum_buffer.md): what each buffer command answers, and
the frame of every command that writes one buffer. All of these end in a `State.setBuf` of their own buffer, or refuse,
which leaves the buffer with the bytes it had.
-/

namespace Sys2Proof.Machine

/-! ### The reference checksum (R202) -/

theorem toNat_sumMod256 (v : List Byte) : (sumMod256 v).toNat = (v.map BitVec.toNat).sum % 256 := by
  induction v with
  | nil => rfl
  | cons b v ih =>
    have hcons : sumMod256 (b :: v) = b + sumMod256 v := by
      rw [sumMod256, List.foldl_cons, foldl_add_eq, zero_add, sumMod256]
    rw [hcons, BitVec.toNat_add, ih, List.map_cons, List.sum_cons, Nat.add_mod_mod]

theorem checksum_eq_sumMod256 {p : Params} (h : p.cksum = .sumMod256) : checksum p = sumMod256 := by
  funext v
  rw [checksum, h]

/-! ### Writing one buffer -/

@[simp] theorem State.setBuf_buf (s : State) (b : BufIdx) : s.setBuf b (s.buf b) = s := by cases b <;> rfl

/-- The state differs from `s` at most in what buffer `b` holds, which is `v`, and in the result ports. -/
def WroteBuf (s : State) (b : BufIdx) (v : List Byte) (t : State) : Prop := t = (s.setBuf b v).finish t.result

theorem wroteBuf_finish (s : State) (b : BufIdx) (v : List Byte) (r : ResultPorts) :
    WroteBuf s b v ((s.setBuf b v).finish r) := rfl

theorem wroteBuf_raise (s : State) (b : BufIdx) (st : Status) : WroteBuf s b (s.buf b) (s.raise st) := by
  rw [WroteBuf, State.setBuf_buf, State.raise_result, State.raise]

theorem WroteBuf.frame {s t : State} {b : BufIdx} {v : List Byte} (h : WroteBuf s b v t) :
    t = { s with bufs := t.bufs, result := t.result } := by
  rw [h]
  rfl

theorem WroteBuf.buf_self {s t : State} {b : BufIdx} {v : List Byte} (h : WroteBuf s b v t) : t.buf b = v := by
  rw [h, State.buf_finish, State.buf_setBuf_self]

theorem WroteBuf.buf_of_ne {s t : State} {b c : BufIdx} {v : List Byte} (h : WroteBuf s b v t) (hc : c ≠ b) :
    t.buf c = s.buf c := by
  rw [h, State.buf_finish, State.buf_setBuf_of_ne s hc]

/-- The guarded write of the host commands leaves in its buffer the new contents, or, where it is refused, the old. -/
theorem guardedWrite_wroteBuf {s t : State} {b : BufIdx} {f : State → List Byte}
    (h : whenStopped s (fun s => hostBufWrite s b (f s)) = .next t) :
    WroteBuf s b (s.buf b) t ∨ WroteBuf s b (f s) t := by
  rcases whenStopped_eq_next h with ⟨_, rfl⟩ | ⟨_, hw⟩
  · exact .inl (wroteBuf_raise s b _)
  · rcases hostBufWrite_eq_next hw with ⟨_, rfl⟩ | ⟨_, rfl⟩
    · exact .inr (wroteBuf_finish s b _ _)
    · exact .inl (wroteBuf_raise s b _)

theorem encodeInto_wroteBuf {s t : State} {b : BufIdx} {cmd : Byte} {rd : Option Reading}
    (h : encodeInto s b cmd rd = .next t) : ∃ v, WroteBuf s b v t := by
  rcases guardedWrite_wroteBuf h with hold | hnew
  · exact ⟨_, hold⟩
  · exact ⟨_, hnew⟩

/-- An append leaves the bytes its buffer had at the front (R210). -/
theorem execBufAppend_wroteBuf {s t : State} {b : BufIdx} (h : execBufAppend b s = .next t) :
    ∃ v, WroteBuf s b v t ∧ s.buf b <+: v := by
  rcases guardedWrite_wroteBuf h with hold | hnew
  · exact ⟨_, hold, List.prefix_rfl⟩
  · exact ⟨_, hnew, List.prefix_append _ _⟩

theorem execBufReset_wroteBuf {s t : State} {b : BufIdx} (h : execBufReset b s = .next t) :
    ∃ v, WroteBuf s b v t := by
  rcases whenStopped_eq_next h with ⟨_, rfl⟩ | ⟨_, hw⟩
  · exact ⟨_, wroteBuf_raise s b _⟩
  · cases hw
    exact ⟨_, wroteBuf_finish s b _ _⟩

theorem exec_bufAppend_of_stopped {s : State} (hr : s.running = false) (b : BufIdx) :
    exec (.bufAppend b) s = hostBufWrite s b (s.buf b ++ s.ports.data) := by
  rw [exec, execBufAppend, whenStopped_of_stopped hr]

theorem exec_bufReset_of_stopped {s : State} (hr : s.running = false) (b : BufIdx) :
    exec (.bufReset b) s = .next ((s.setBuf b []).finish { status := .ok }) := by
  rw [exec, execBufReset, whenStopped_of_stopped hr]

/-- The six commands that write one buffer (R210, R212, R241..R244). -/
def bufWriters (b : BufIdx) : List Instr :=
  [.bufAppend b, .bufReset b, .encRreq b, .encRrsp b, .encDreq b, .encDrsp b]

theorem exec_bufWriter {i : Instr} {b : BufIdx} (hi : i ∈ bufWriters b) {s t : State} (h : exec i s = .next t) :
    ∃ v, WroteBuf s b v t ∧ (i = .bufAppend b → s.buf b <+: v) := by
  have other (hv : ∃ v, WroteBuf s b v t) (hne : i ≠ .bufAppend b) :
      ∃ v, WroteBuf s b v t ∧ (i = .bufAppend b → s.buf b <+: v) :=
    hv.imp fun _ hw => ⟨hw, fun he => absurd he hne⟩
  simp only [bufWriters, List.mem_cons, List.not_mem_nil, or_false] at hi
  rcases hi with rfl | rfl | rfl | rfl | rfl | rfl
  case inl => exact (execBufAppend_wroteBuf h).imp fun _ ⟨hw, hp⟩ => ⟨hw, fun _ => hp⟩
  case inr.inl => exact other (execBufReset_wroteBuf h) nofun
  all_goals exact other (encodeInto_wroteBuf h) nofun

/-! ### The obligations -/

/-- Settles O10, by induction on the byte string. -/
theorem referenceChecksumIsTheByteSum : Obligations.ReferenceChecksumIsTheByteSum := by
  intro p hp
  rw [checksum_eq_sumMod256 hp]
  exact ⟨toNat_sumMod256, sumMod256_flipBit_ne⟩

/-- Settles O14: every command of the list writes its own buffer only, and an append extends what it had. -/
theorem bufferWritersFrame : Obligations.BufferWritersFrame := by
  intro s t b i hi h
  obtain ⟨v, hw, hfront⟩ := exec_bufWriter hi h
  refine ⟨hw.frame, fun c k hc => ?_, fun he k hk => ?_⟩
  · rw [State.readByte, State.readByte, hw.buf_of_ne hc]
  · obtain ⟨rest, rfl⟩ := hfront he
    rw [State.readByte, State.readByte, hw.buf_self, List.getElem?_append_left hk]

/-- Settles O9: the two sides of the range check. -/
theorem cksumCommand : Obligations.CksumCommand := fun _ b =>
  ⟨decodeOfEncodeIsTheInstruction (.cksum b),
    fun hin => if_neg (Nat.not_lt.mpr hin),
    fun hpast => if_pos hpast⟩

/-- Settles O11: the guard, then the two sides of the capacity check. -/
theorem bufAppendCommand : Obligations.BufAppendCommand := by
  intro s b
  rw [← List.length_append]
  refine ⟨decodeOfEncodeIsTheInstruction (.bufAppend b), exec_of_mutating_of_running rfl, fun hr hexceeds => ?_,
    fun hr hfits => ?_⟩
  · exact (exec_bufAppend_of_stopped hr b).trans (hostBufWrite_of_exceeds hexceeds b)
  · have hw := wroteBuf_finish s b (s.buf b ++ s.ports.data) { status := .ok }
    exact ⟨_, (exec_bufAppend_of_stopped hr b).trans (hostBufWrite_of_fits hfits b), hw.buf_self, hw.frame,
      fun _ => hw.buf_of_ne⟩

/-- Settles O12: the guard, then a write of no bytes. -/
theorem bufResetCommand : Obligations.BufResetCommand := by
  intro s b
  refine ⟨decodeOfEncodeIsTheInstruction (.bufReset b), exec_of_mutating_of_running rfl, fun hr => ?_⟩
  have hw := wroteBuf_finish s b [] { status := .ok }
  exact ⟨_, exec_bufReset_of_stopped hr b, hw.buf_self, hw.frame, fun _ => hw.buf_of_ne⟩

/-- Settles O13: neither command has a guard or a case to fail in. -/
theorem bufLenAndBufReadCommands : Obligations.BufLenAndBufReadCommands := fun _ b =>
  ⟨decodeOfEncodeIsTheInstruction (.bufLen b), decodeOfEncodeIsTheInstruction (.bufRead b), rfl, rfl⟩

end Sys2Proof.Machine
end

section
/-!
The statements about the packet codec (spec/41_codec.md). Header and content are both a byte string followed by its
checksum (`SealedAt`), so what one inverted bit does to either is said once; the decoder is characterised by the first
valid header (`decodeBytes_cases`), and the round trip and the single-bit errors are read off that.
-/

namespace Sys2Proof.Machine

open Sys2Proof.Claims Sys2Proof.Safety

/-! ### Bytes and slices of a buffer -/

theorem byteAt_drop (v : List Byte) (k i : Nat) : byteAt (v.drop k) i = byteAt v (k + i) := by
  simp [byteAt, List.getD_eq_getElem?_getD]

theorem byteAt_take (v : List Byte) {n i : Nat} (h : i < n) : byteAt (v.take n) i = byteAt v i := by
  simp [byteAt, List.getD_eq_getElem?_getD, List.getElem?_take_of_lt h]

/-- The `n` bytes from offset `off` are followed by their checksum (R161, R163, R164). -/
def SealedAt (p : Params) (v : List Byte) (off n : Nat) : Prop := checksum p (slice v off n) = byteAt v (off + n)

theorem validHeaderAt_iff {p : Params} {v : List Byte} {i : Nat} :
    ValidHeaderAt p v i ↔ i + 4 ≤ v.length ∧ byteAt v i = p.pre0 ∧ byteAt v (i + 1) = p.pre1 ∧ SealedAt p v i 3 :=
  Iff.rfl

theorem validContentAt_iff {p : Params} {v : List Byte} {i n : Nat} (hn : 1 ≤ n) :
    ValidContentAt p v i n ↔ SealedAt p v (i + 4) (n - 1) := by
  rw [ValidContentAt, SealedAt, Nat.add_sub_assoc hn]

/-- The content check of the decoder, on the bytes behind the header (R257). -/
theorem checksum_drop_iff {p : Params} {v : List Byte} {i n : Nat} (hn : 1 ≤ n) :
    checksum p ((v.drop (i + 4)).take (n - 1)) = byteAt (v.drop (i + 4)) (n - 1) ↔ ValidContentAt p v i n := by
  rw [validContentAt_iff hn, byteAt_drop]
  exact Iff.rfl

theorem headerMatches_drop {p : Params} {v : List Byte} {k : Nat} :
    headerMatches p (v.drop k) ↔ ValidHeaderAt p v k := by
  have hlen : 4 ≤ (v.drop k).length ↔ k + 4 ≤ v.length := by
    rw [List.length_drop]
    omega
  rw [headerMatches, hlen, byteAt_drop, byteAt_drop, byteAt_drop]
  exact Iff.rfl

/-! ### The packet at an offset -/

/-- Everything the decoder checks of a packet at offset `i`: the header, the length, and the content (R253..R257). -/
structure ValidPacketAt (p : Params) (v : List Byte) (i : Nat) : Prop where
  header : ValidHeaderAt p v i
  size : (byteAt v (i + 2)).toNat = 10 ∨ (byteAt v (i + 2)).toNat = 19
  complete : i + 4 + (byteAt v (i + 2)).toNat ≤ v.length
  content : ValidContentAt p v i (byteAt v (i + 2)).toNat

theorem legalLength_iff_toNat (n : Byte) : (n = 10 ∨ n = 19) ↔ (n.toNat = 10 ∨ n.toNat = 19) := by
  simp [← BitVec.toNat_inj]

/-- The fields of a legal content, read from the buffer it stands in (R258). -/
theorem parsePacket_eq_packetAt {v : List Byte} {i : Nat} {n : Byte} (hb : byteAt v (i + 2) = n)
    (hn : n = 10 ∨ n = 19) :
    parsePacket i n (byteAt v (i + 3)) ((v.drop (i + 4)).take n.toNat) = packetAt v i := by
  rcases hn with rfl | rfl <;>
    simp [parsePacket, parseReading, packetAt, rd32, word32At, hb, byteAt_take, byteAt_drop, Config.clData, Nat.add_assoc]

/-- Behind a valid header the content check answers what the claim says (R255..R258). -/
theorem resultAt_checkContent (p : Params) (v : List Byte) (i : Nat) :
    resultAt p v i (checkContent p i (byteAt v (i + 2)) (byteAt v (i + 3)) (v.drop (i + 4))) := by
  have hsize := legalLength_iff_toNat (byteAt v (i + 2))
  rcases checkContent_cases p i (byteAt v (i + 2)) (byteAt v (i + 3)) (v.drop (i + 4)) with
    ⟨h10, h19, he⟩ | ⟨hn, hl, he⟩ | ⟨hn, hl, hc, he⟩ | ⟨hn, hl, hc, he⟩ <;>
    rw [he]
  · have hne := mt hsize.mpr (not_or.mpr ⟨h10, h19⟩)
    exact ⟨fun _ => rfl, fun h => absurd h hne, fun h => absurd h hne, fun h => absurd h hne⟩
  all_goals
    have hn' := hsize.mp hn
    rw [List.length_drop] at hl
    refine ⟨fun h => absurd hn' (not_or.mpr h), ?_⟩
  · exact ⟨fun _ _ => rfl, fun _ h => absurd h (by omega), fun _ h => absurd h (by omega)⟩
  · have hbad := mt (checksum_drop_iff (by omega)).mpr hc
    exact ⟨fun _ h => absurd h (by omega), fun _ _ _ => rfl, fun _ _ h => absurd h hbad⟩
  · have hgood := (checksum_drop_iff (by omega)).mp hc
    exact ⟨fun _ h => absurd h (by omega), fun _ _ h => absurd hgood h,
      fun _ _ _ => by rw [parsePacket_eq_packetAt rfl hn]⟩

/-! ### The decode as a whole -/

/-- A decode finds no valid header at all, or the first one decides (R253, R254). -/
theorem decodeBytes_cases (p : Params) (v : List Byte) :
    ((∀ i, ¬ ValidHeaderAt p v i) ∧ decodeBytes p v = .fail .none) ∨
      ∃ i, ValidHeaderAt p v i ∧ (∀ j, j < i → ¬ ValidHeaderAt p v j) ∧ resultAt p v i (decodeBytes p v) := by
  rcases scanFrom_cases p v 0 with ⟨hno, he⟩ | ⟨i, hi, hfirst, he⟩
  · exact .inl ⟨fun i => mt headerMatches_drop.mpr (hno i), he⟩
  · refine .inr ⟨i, headerMatches_drop.mp hi, fun j hj => mt headerMatches_drop.mpr (hfirst j hj), ?_⟩
    rw [decodeBytes, he, Nat.zero_add, byteAt_drop, byteAt_drop]
    exact resultAt_checkContent p v i

/-- Settles O19: the first valid header is the one the scan ended at. -/
theorem decoderDecidesAtTheFirstValidHeader : Obligations.DecoderDecidesAtTheFirstValidHeader := by
  intro p v
  rcases decodeBytes_cases p v with ⟨hno, he⟩ | ⟨k, hk, hkfirst, hr⟩
  · exact ⟨fun _ => he, fun i hi => absurd hi (hno i)⟩
  · refine ⟨fun hno => absurd hk (hno k), fun i hi hifirst => ?_⟩
    rcases Nat.lt_trichotomy i k with h | rfl | h
    · exact absurd hi (hkfirst i h)
    · exact hr
    · exact absurd hk (hifirst k h)

/-- A valid header at the front decides. -/
theorem resultAt_decodeBytes_zero {p : Params} {v : List Byte} (h : ValidHeaderAt p v 0) :
    resultAt p v 0 (decodeBytes p v) :=
  (decoderDecidesAtTheFirstValidHeader p v).2 0 h nofun

theorem decodeBytes_of_validPacketAt_zero {p : Params} {v : List Byte} (h : ValidPacketAt p v 0) :
    decodeBytes p v = .ok (packetAt v 0) := by
  obtain ⟨_, _, _, hvalid⟩ := resultAt_decodeBytes_zero h.header
  exact hvalid h.size h.complete h.content

/-- What a decode accepts stands in the buffer at its own offset, with both checksums matching (R258, R261). -/
theorem validPacketAt_of_decodeBytes {p : Params} {v : List Byte} {pkt : Packet} (h : decodeBytes p v = .ok pkt) :
    ValidPacketAt p v pkt.offset ∧ pkt = packetAt v pkt.offset := by
  obtain ⟨k, n, hheader, hn, hsize, hl, hc, rfl⟩ := decodeBytes_eq_ok h
  rw [byteAt_drop] at hn ⊢
  have hsize' := (legalLength_iff_toNat n).mp hsize
  have hcontent : ValidContentAt p v k n.toNat := (checksum_drop_iff (by omega)).mp hc
  rw [List.length_drop] at hl
  have hcomplete : k + 4 + n.toNat ≤ v.length := by omega
  rw [parsePacket_eq_packetAt hn.symm hsize]
  subst hn
  exact ⟨⟨headerMatches_drop.mp hheader, hsize', hcomplete, hcontent⟩, rfl⟩

/-- Without a valid header at the front the scan goes on at offset 1 (R254). -/
theorem decodeBytes_resync {p : Params} {v : List Byte} (hl : 4 ≤ v.length) (h : ¬ ValidHeaderAt p v 0) :
    decodeBytes p v = scanFrom p 1 v.tail := by
  have hm : ¬ headerMatches p v := mt (headerMatches_drop (k := 0)).mp h
  cases v with
  | nil => exact absurd hl (by decide)
  | cons b v => exact scanFrom_of_mismatch (checkOffset_of_no_match hl hm)

/-! ### The serialized packet -/

theorem serialize_none (p : Params) (cmd : Byte) (dest src : Addr) :
    serialize p cmd dest src none = controlPacket p cmd dest src := rfl

theorem serialize_some (p : Params) (cmd : Byte) (dest src : Addr) (rd : Reading) :
    serialize p cmd dest src (some rd) = dataPacket p cmd dest src rd := rfl

/-- Settles O17: both shapes of the serializer, written out. -/
theorem serializedPacketLayout : Obligations.SerializedPacketLayout := fun p cmd dest src rd =>
  ⟨serialize_none p cmd dest src, serialize_some p cmd dest src rd, rfl, rfl⟩

/-- The packet is valid wherever its bytes begin a buffer (R260). -/
theorem validPacketAt_serialize_append (p : Params) (cmd : Byte) (dest src : Addr) (rd : Option Reading)
    (rest : List Byte) : ValidPacketAt p (serialize p cmd dest src rd ++ rest) 0 := by
  have hheader : 4 ≤ (serialize p cmd dest src rd ++ rest).length := by
    rw [serialize_eq]
    exact Nat.le_add_left 4 _
  have hpacket : (serialize p cmd dest src rd).length ≤ (serialize p cmd dest src rd ++ rest).length := by simp
  cases rd with
  | none => exact ⟨⟨hheader, rfl, rfl, rfl⟩, .inl rfl, hpacket, rfl⟩
  | some rd => exact ⟨⟨hheader, rfl, rfl, rfl⟩, .inr rfl, hpacket, rfl⟩

/-- The fields of the packet are the serializer's arguments (R240, R258). -/
theorem packetAt_serialize_append (p : Params) (cmd : Byte) (dest src : Addr) (rd : Option Reading)
    (rest : List Byte) :
    let pkt := packetAt (serialize p cmd dest src rd ++ rest) 0
    pkt.dest = dest ∧ pkt.src = src ∧ pkt.command = cmd ∧ pkt.reading = rd ∧
      pkt.contentLength = if rd.isSome then 19 else 10 := by
  cases rd with
  | none => exact ⟨rd32_le32 dest, rd32_le32 src, rfl, rfl, rfl⟩
  | some rd => exact ⟨rd32_le32 dest, rd32_le32 src, rfl, rfl, rfl⟩

/-- Settles O20: a packet at the front is valid, so it is what the decode finds. -/
theorem packetRoundTrip : Obligations.PacketRoundTrip := fun p cmd dest src rd rest =>
  ⟨_, decodeBytes_of_validPacketAt_zero (validPacketAt_serialize_append p cmd dest src rd rest), rfl,
    packetAt_serialize_append p cmd dest src rd rest⟩

/-! ### One inverted bit -/

@[simp] theorem length_flipBit (v : List Byte) (k j : Nat) : (flipBit v k j).length = v.length :=
  List.length_modify ..

theorem byteAt_flipBit_self {v : List Byte} {k : Nat} (h : k < v.length) (j : Nat) :
    byteAt (flipBit v k j) k = byteAt v k ^^^ BitVec.twoPow 8 j := by
  simp [byteAt, flipBit, List.getD_eq_getElem?_getD, h]

theorem byteAt_flipBit_of_ne (v : List Byte) {k i : Nat} (h : k ≠ i) (j : Nat) :
    byteAt (flipBit v k j) i = byteAt v i := by
  simp [byteAt, flipBit, List.getD_eq_getElem?_getD, h]

theorem byteAt_flipBit_self_ne {v : List Byte} {k j : Nat} (h : k < v.length) (hj : j < 8) :
    byteAt (flipBit v k j) k ≠ byteAt v k := by
  rw [byteAt_flipBit_self h]
  exact xor_twoPow_ne _ hj

theorem slice_flipBit_inside (v : List Byte) {off n k : Nat} (h : off ≤ k) (j : Nat) :
    slice (flipBit v k j) off n = flipBit (slice v off n) (k - off) j := by
  rw [slice, flipBit, List.drop_modify_of_ge _ _ _ _ h, List.take_modify]
  rfl

theorem slice_flipBit_outside (v : List Byte) {off n k : Nat} (h : k < off ∨ off + n ≤ k) (j : Nat) :
    slice (flipBit v k j) off n = slice v off n := by
  rcases h with h | h
  · rw [slice, flipBit, List.drop_modify_of_lt _ _ _ _ h, slice]
  · rw [slice_flipBit_inside v (by omega)]
    exact List.modify_eq_self (by rw [slice_length]; omega)

section
variable {p : Params} {v : List Byte} {off n k j : Nat}

/-- A bit inverted in the bytes changes the checksum, by the law, and one inverted in the checksum changes what it is
compared with (R201, R261). -/
theorem not_sealedAt_flipBit (law : SingleBitLaw (checksum p)) (hs : SealedAt p v off n) (hlen : off + n < v.length)
    (hj : j < 8) (hlo : off ≤ k) (hhi : k ≤ off + n) : ¬ SealedAt p (flipBit v k j) off n := by
  rw [SealedAt] at hs ⊢
  rcases Nat.lt_or_eq_of_le hhi with h | rfl
  · rw [slice_flipBit_inside v hlo, byteAt_flipBit_of_ne v (Nat.ne_of_lt h), ← hs]
    exact law _ _ _ (by rw [slice_length]; omega) hj
  · rw [slice_flipBit_outside v (.inr (Nat.le_refl _)), hs]
    exact (byteAt_flipBit_self_ne hlen hj).symm

theorem sealedAt_flipBit_outside (h : k < off ∨ off + n < k) :
    SealedAt p (flipBit v k j) off n ↔ SealedAt p v off n := by
  rw [SealedAt, SealedAt, slice_flipBit_outside v (h.imp_right Nat.le_of_lt), byteAt_flipBit_of_ne v (by omega)]

/-- Behind the four header bytes an inverted bit leaves the header valid. -/
theorem validHeaderAt_flipBit (hk : 4 ≤ k) : ValidHeaderAt p (flipBit v k j) 0 ↔ ValidHeaderAt p v 0 := by
  rw [validHeaderAt_iff, validHeaderAt_iff, length_flipBit, byteAt_flipBit_of_ne v (by omega),
    byteAt_flipBit_of_ne v (by omega), sealedAt_flipBit_outside (.inr (by omega))]

/-- A bit inverted in the preamble (R261). -/
theorem preamble_flipBit (hv : ValidHeaderAt p v 0) (hk : k ≤ 1) (hj : j < 8) :
    ¬ (byteAt (flipBit v k j) 0 = p.pre0 ∧ byteAt (flipBit v k j) 1 = p.pre1) := by
  obtain ⟨hl, h0, h1, _⟩ := hv
  rintro ⟨e0, e1⟩
  rcases Nat.le_one_iff_eq_zero_or_eq_one.mp hk with rfl | rfl
  · exact byteAt_flipBit_self_ne (by omega) hj (e0.trans h0.symm)
  · exact byteAt_flipBit_self_ne (by omega) hj (e1.trans h1.symm)

/-- A bit inverted in the length or the header checksum (R261). -/
theorem headerChecksum_flipBit (law : SingleBitLaw (checksum p)) (hv : ValidHeaderAt p v 0) (hk : k = 2 ∨ k = 3)
    (hj : j < 8) : ¬ SealedAt p (flipBit v k j) 0 3 := by
  obtain ⟨hl, _, _, hs⟩ := validHeaderAt_iff.mp hv
  exact not_sealedAt_flipBit law hs hl hj (Nat.zero_le _) (by omega)

theorem not_validHeaderAt_flipBit (law : SingleBitLaw (checksum p)) (hv : ValidHeaderAt p v 0) (hk : k ≤ 3)
    (hj : j < 8) : ¬ ValidHeaderAt p (flipBit v k j) 0 := by
  rintro ⟨_, h0, h1, hs⟩
  by_cases h : k ≤ 1
  · exact preamble_flipBit hv h hj ⟨h0, h1⟩
  · exact headerChecksum_flipBit law hv (by omega) hj hs

/-- A bit inverted in the content: the header stays valid and the content check fails (R261). -/
theorem decodeBytes_flipBit_content (law : SingleBitLaw (checksum p)) (hv : ValidPacketAt p v 0) (hj : j < 8)
    (hlo : 4 ≤ k) (hhi : k < 4 + (byteAt v 2).toNat) :
    ValidHeaderAt p (flipBit v k j) 0 ∧ decodeBytes p (flipBit v k j) = .fail .badContent := by
  obtain ⟨header, size, complete, content⟩ := hv
  simp only [Nat.zero_add] at size complete content
  have header' := (validHeaderAt_flipBit (j := j) hlo).mpr header
  have hpos : 1 ≤ (byteAt v 2).toNat := by omega
  have content' : ¬ ValidContentAt p (flipBit v k j) 0 (byteAt v 2).toNat := by
    rw [validContentAt_iff hpos] at content ⊢
    exact not_sealedAt_flipBit law content (by omega) hj (by omega) (by omega)
  obtain ⟨_, _, hbad, _⟩ := resultAt_decodeBytes_zero header'
  rw [Nat.zero_add, byteAt_flipBit_of_ne v (by omega), length_flipBit] at hbad
  exact ⟨header', hbad size complete content'⟩

end

/-- Settles O21: the serialized packet is valid at offset 0, and each part of it is looked at in turn. -/
theorem singleBitErrorsFailClosed : Obligations.SingleBitErrorsFailClosed := by
  rintro p cmd dest src rd k j law hk hj _ rfl
  have hv : ValidPacketAt p (serialize p cmd dest src rd) 0 := by
    simpa using validPacketAt_serialize_append p cmd dest src rd []
  have hlen : (serialize p cmd dest src rd).length = 4 + (byteAt (serialize p cmd dest src rd) 2).toNat := by
    cases rd <;> rfl
  refine ⟨fun h => preamble_flipBit hv.header h hj, fun h => headerChecksum_flipBit law hv.header h hj,
    fun h => decodeBytes_resync ?_ (not_validHeaderAt_flipBit law hv.header h hj),
    fun h => decodeBytes_flipBit_content law hv hj h (hlen ▸ hk), fun pkt h => ?_⟩
  · rw [length_flipBit, hlen]
    exact Nat.le_add_right _ _
  · obtain ⟨hpkt, he⟩ := validPacketAt_of_decodeBytes h
    refine ⟨hpkt.header, ?_⟩
    rw [he]
    exact hpkt.content

/-! ### The commands -/

/-- The four encoders on buffer `b`, each with its operation code and the packet it builds (R241..R244). -/
def encoders (s : State) (b : BufIdx) : List (BitVec 8 × Instr × List Byte) :=
  [(0x10, .encRreq b, controlPacket s.params s.params.cmdRreq s.ports.a s.ports.b),
    (0x11, .encRrsp b, controlPacket s.params s.params.cmdRrsp s.ports.a s.ports.b),
    (0x12, .encDreq b, controlPacket s.params s.params.cmdDreq s.ports.a s.ports.b),
    (0x13, .encDrsp b, dataPacket s.params s.params.cmdDrsp s.ports.a s.ports.b s.ports.rd)]

/-- The encoders differ only in the command byte and the reading they serialize. -/
theorem encoder_spec {s : State} {b : BufIdx} {opc : BitVec 8} {i : Instr} {packet : List Byte}
    (h : (opc, i, packet) ∈ encoders s b) :
    encode i = packWord opc b.toBits 0 ∧ isMutating i = true ∧
      ∃ cmd rd, exec i s = encodeInto s b cmd rd ∧ packet = serialize s.params cmd s.ports.a s.ports.b rd := by
  simp only [encoders, List.mem_cons, Prod.mk.injEq, List.not_mem_nil, or_false] at h
  rcases h with ⟨rfl, rfl, rfl⟩ | ⟨rfl, rfl, rfl⟩ | ⟨rfl, rfl, rfl⟩ | ⟨rfl, rfl, rfl⟩ <;>
    exact ⟨rfl, rfl, _, _, rfl, rfl⟩

theorem serialize_length_le (p : Params) (cmd : Byte) (dest src : Addr) (rd : Option Reading) :
    (serialize p cmd dest src rd).length ≤ 23 := by
  rw [serialize_length]
  split <;> decide

/-- No packet is too long for a buffer of a legal capacity (R8, R44). -/
theorem encodeInto_of_stopped {s : State} (hr : s.running = false) (hcap : 23 ≤ s.params.bufCap) (b : BufIdx)
    (cmd : Byte) (rd : Option Reading) :
    encodeInto s b cmd rd =
      .next ((s.setBuf b (serialize s.params cmd s.ports.a s.ports.b rd)).finish { status := .ok }) := by
  rw [encodeInto, whenStopped_of_stopped hr, hostBufWrite_of_fits (le_trans (serialize_length_le ..) hcap)]

/-- Settles O18: the guard, then a write that always fits. -/
theorem encodersOverwriteTheirBuffer : Obligations.EncodersOverwriteTheirBuffer := by
  intro s b hcap opc i packet h
  obtain ⟨hword, hmutating, cmd, rd, hexec, rfl⟩ := encoder_spec h
  refine ⟨hword ▸ decodeOfEncodeIsTheInstruction i, exec_of_mutating_of_running hmutating, fun hr => ?_⟩
  have hw := wroteBuf_finish s b (serialize s.params cmd s.ports.a s.ports.b rd) { status := .ok }
  exact ⟨_, hexec.trans (encodeInto_of_stopped hr hcap b cmd rd), hw.buf_self, hw.frame, fun _ => hw.buf_of_ne⟩

theorem exec_decode {s : State} {b : BufIdx} {r : DecodeResult} (h : decodeBytes s.params (s.buf b) = r) :
    exec (.decode b) s = .next (s.finish r.ports) := by
  rw [exec, execDecode, h]

/-- Settles O22: the result ports of the three ways a decode ends. -/
theorem decodeCommand : Obligations.DecodeCommand := fun _ b =>
  ⟨decodeOfEncodeIsTheInstruction (.decode b), fun _ => exec_decode, exec_decode, exec_decode⟩

end Sys2Proof.Machine
end

section
/-!
The statements about the sensor registry (spec/42_registry.md): the registry commands, and where the records of a step come
from. Each record after a step is an old one that moved (`RecordMove`) or one the step created (`NewIn`); the two
whole-machine statements are read off that (`step_movedOrNew`).
-/

namespace Sys2Proof.Machine

open Sys2Proof.Claims Sys2Proof.Safety

/-! ### What one operation makes of a record (R308, R309, R312) -/

/-- A record is kept or moves along one arrow of the state machine; a registration moves it in one state only. -/
inductive RecordMove (r : SensorRecord) : SensorRecord → Prop where
  | keep : RecordMove r r
  | request (now : Time) : RecordMove r (r.pollRequested now)
  | respond (rd : Reading) (h : r.state = .pollRequested) : RecordMove r (r.pollResponded rd)
  | register : RecordMove r r.registered

theorem registered_cases (r : SensorRecord) :
    r.registered = r ∨ (r.state = .registerPending ∧ r.registered = { r with state := .registerResponded }) := by
  by_cases h : r.state = .registerPending
  · exact .inr ⟨h, if_pos h⟩
  · exact .inl (if_neg h)

theorem RecordMove.keys {r q : SensorRecord} (h : RecordMove r q) : q.address = r.address ∧ q.seq = r.seq := by
  cases h with
  | register => exact keepsKeys_registered r
  | _ => exact ⟨rfl, rfl⟩

theorem RecordMove.transition {r q : SensorRecord} (h : RecordMove r q) : Transition r.state q.state := by
  cases h with
  | keep => exact .inl rfl
  | request now => exact .inr (.inr (.inl rfl))
  | respond rd hs => exact .inr (.inr (.inr ⟨hs, rfl⟩))
  | register =>
    rcases registered_cases r with e | ⟨hs, e⟩
    · exact .inl (by rw [e])
    · exact .inr (.inl ⟨hs, by rw [e]⟩)

/-- Only a request counts a request, and only a response counts a response. -/
theorem RecordMove.counters {r q : SensorRecord} (h : RecordMove r q) :
    (q.requestCount = r.requestCount ∧ q.lastRequestTime = r.lastRequestTime ∨
      q.requestCount = r.requestCount + 1 ∧ q.state = .pollRequested) ∧
    (q.responseCount = r.responseCount ∧ q.lastReading = r.lastReading ∨
      q.responseCount = r.responseCount + 1 ∧ r.state = .pollRequested ∧ q.state = .pollResponded) := by
  cases h with
  | keep => exact ⟨.inl ⟨rfl, rfl⟩, .inl ⟨rfl, rfl⟩⟩
  | request now => exact ⟨.inr ⟨rfl, rfl⟩, .inl ⟨rfl, rfl⟩⟩
  | respond rd hs => exact ⟨.inl ⟨rfl, rfl⟩, .inr ⟨rfl, hs, rfl⟩⟩
  | register =>
    rcases registered_cases r with e | ⟨_, e⟩ <;> rw [e] <;> exact ⟨.inl ⟨rfl, rfl⟩, .inl ⟨rfl, rfl⟩⟩

/-- A record just created for an address that was absent, moved on at most by the registration that created it (R302). -/
def NewIn (s : State) (q : SensorRecord) : Prop :=
  ∃ a, (∀ r ∈ s.registry, r.address ≠ a) ∧
    (q = newRecord a s.nextSeq ∨ q = { newRecord a s.nextSeq with state := .registerResponded })

theorem NewIn.seq {s : State} {q : SensorRecord} (h : NewIn s q) : q.seq = s.nextSeq := by
  obtain ⟨_, _, rfl | rfl⟩ := h <;> rfl

theorem NewIn.as_specified {s : State} {q : SensorRecord} (h : NewIn s q) :
    (∀ r ∈ s.registry, r.address ≠ q.address) ∧ q.seq = s.nextSeq ∧
      (q.state = .registerPending ∨ q.state = .registerResponded) ∧
      q.requestCount = 0 ∧ q.responseCount = 0 ∧ q.lastRequestTime = 0 ∧ q.lastReading = none := by
  obtain ⟨a, habsent, rfl | rfl⟩ := h
  · exact ⟨habsent, rfl, .inl rfl, rfl, rfl, rfl, rfl⟩
  · exact ⟨habsent, rfl, .inr rfl, rfl, rfl, rfl, rfl⟩

/-! ### What one effect makes of the records -/

/-- Every record of the second registry is a moved record of the first. -/
def Moved (reg reg' : List SensorRecord) : Prop := ∀ q ∈ reg', ∃ r ∈ reg, RecordMove r q

theorem moved_of_subset {reg reg' : List SensorRecord} (h : reg' ⊆ reg) : Moved reg reg' :=
  fun q hq => ⟨q, h hq, .keep⟩

theorem moved_refl (reg : List SensorRecord) : Moved reg reg := moved_of_subset (List.Subset.refl reg)

theorem removeRecord_subset (reg : List SensorRecord) (a : Addr) : removeRecord reg a ⊆ reg :=
  fun _ hq => (mem_removeRecord.mp hq).1

theorem moved_update {reg : List SensorRecord} {a : Addr} {f : SensorRecord → SensorRecord}
    (hf : ∀ r ∈ reg, r.address = a → RecordMove r (f r)) : Moved reg (updateRecord reg a f) := by
  intro q hq
  obtain ⟨r, hr, rfl⟩ := mem_updateRecord.mp hq
  refine ⟨r, hr, ?_⟩
  split
  · next ha => exact hf r hr ha
  · exact .keep

theorem moved_request (reg : List SensorRecord) (a : Addr) (now : Time) :
    Moved reg (updateRecord reg a (·.pollRequested now)) :=
  moved_update fun _ _ _ => .request now

/-- A response found its record in `PollRequested`, and with unique addresses it changes no other record. -/
theorem moved_respond {reg : List SensorRecord} (hunique : (reg.map (·.address)).Nodup) {a : Addr} {r : SensorRecord}
    (hf : findRecord reg a = some r) (hs : r.state = .pollRequested) (rd : Reading) :
    Moved reg (updateRecord reg a (·.pollResponded rd)) := by
  refine moved_update fun q hq ha => ?_
  obtain ⟨hr, hra⟩ := findRecord_some hf
  rw [eq_of_same_address hunique hq hr (ha.trans hra.symm)]
  exact .respond rd hs

/-- Every record of `u` is a moved record of `s` or new in it. -/
def MovedOrNew (s u : State) : Prop := ∀ q ∈ u.registry, (∃ r ∈ s.registry, RecordMove r q) ∨ NewIn s q

theorem Moved.movedOrNew {s u : State} (h : Moved s.registry u.registry) : MovedOrNew s u :=
  fun q hq => .inl (h q hq)

theorem HostEffect.movedOrNew {s u : State} (hunique : (s.registry.map (·.address)).Nodup) (h : HostEffect s u) :
    MovedOrNew s u := by
  cases h with
  | create a r _ ha =>
    obtain ⟨rfl, _, habsent, _⟩ := addCheck_created ha
    intro q hq
    rcases List.mem_cons.mp hq with rfl | hq
    · exact .inr ⟨a, habsent, .inl rfl⟩
    · exact .inl ⟨q, hq, .keep⟩
  | remove a _ => exact (moved_of_subset (removeRecord_subset _ a)).movedOrNew
  | pollReq a now _ => exact (moved_request _ a now).movedOrNew
  | pollRsp a rd r _ hf hs => exact (moved_respond hunique hf hs rd).movedOrNew
  | cfg n v _ _ => cases n <;> exact (moved_refl _).movedOrNew
  | _ => exact (moved_refl _).movedOrNew

theorem ProcessEffect.movedOrNew {s u : State} (hunique : (s.registry.map (·.address)).Nodup)
    (h : ProcessEffect s u) : MovedOrNew s u := by
  cases h with
  | dropped e => exact (moved_refl _).movedOrNew
  | duplicate src r _ =>
    obtain ⟨hreg, _⟩ := (s.addLog (.duplicateReg src)).stageRegisterResponse_registry src
    exact Moved.movedOrNew (hreg ▸ moved_update fun _ _ _ => .register)
  | created src r ha =>
    obtain ⟨rfl, _, habsent, _⟩ := addCheck_created ha
    obtain ⟨hreg, _⟩ := (s.insertRecord (newRecord src s.nextSeq)).stageRegisterResponse_registry src
    intro q hq
    obtain ⟨r, hr, rfl⟩ := mem_updateRecord.mp (hreg ▸ hq)
    rcases List.mem_cons.mp hr with rfl | hr
    · exact .inr ⟨src, habsent, .inr (if_pos rfl)⟩
    · rw [if_neg (habsent r hr)]
      exact .inl ⟨r, hr, .keep⟩
  | response pkt rd r _ _ _ _ _ hf hs =>
    obtain ⟨hreg, _⟩ := s.stageDatagram_registry pkt rd
    exact Moved.movedOrNew (hreg ▸ moved_respond hunique hf hs rd)

theorem State.evictOffline_subset (s : State) : s.evictOffline.registry ⊆ s.registry := by
  rcases s.evictOffline_cases with ⟨_, e⟩ | ⟨_, _, e⟩ <;> rw [e]
  · exact List.Subset.refl _
  · exact removeRecord_subset _ _

/-- A tick polls one of the records the eviction left (R380). -/
theorem State.tick_moved (s : State) (now : Time) : Moved s.registry (s.tick now).registry := by
  have hpoll : Moved s.evictOffline.registry (s.tick now).registry := by
    rcases s.evictOffline.pollEarliest_cases now with ⟨_, e⟩ | ⟨_, _, ⟨_, e⟩ | ⟨_, e⟩⟩ <;> rw [State.tick, e]
    · exact moved_refl _
    · exact moved_request _ _ now
    · exact moved_request _ _ now
  intro q hq
  obtain ⟨r, hr, hm⟩ := hpoll q hq
  exact ⟨r, s.evictOffline_subset hr, hm⟩

theorem RuleEffect.moved {s u : State} (h : RuleEffect s u) : Moved s.registry u.registry := by
  cases h with
  | tick now => exact s.tick_moved now
  | _ => exact moved_refl _

/-- What is left to process after a tick was there before it, and then the tick polled nothing. -/
theorem State.tick_of_pending {s : State} {now : Time} (h : (s.tick now).intent.processPending = true) :
    s.intent.processPending = true ∧ s.tick now = s.evictOffline := by
  have hevict : s.evictOffline.intent = s.intent := by
    rcases s.evictOffline_cases with ⟨_, e⟩ | ⟨_, _, e⟩ <;> rw [e]
    rfl
  rcases s.evictOffline.pollEarliest_cases now with ⟨_, e⟩ | ⟨_, _, ⟨_, e⟩ | ⟨_, e⟩⟩ <;> rw [State.tick, e] at h
  · exact ⟨hevict ▸ h, e⟩
  · cases h
  · cases h

/-- The rule of an iteration leaves something to process only where it dropped records at most; where nothing was to be
processed before, it dropped none. -/
theorem RuleEffect.registry_of_pending {s u : State} (h : RuleEffect s u) (hp : u.intent.processPending = true) :
    u.registry ⊆ s.registry ∧ (s.intent.processPending = false → u.registry = s.registry) := by
  cases h with
  | tick now =>
    obtain ⟨hs, e⟩ := State.tick_of_pending hp
    exact ⟨e ▸ s.evictOffline_subset, fun hn => absurd (hn.symm.trans hs) Bool.false_ne_true⟩
  | _ => exact ⟨List.Subset.refl _, fun _ => rfl⟩

/-! ### Where the records of a step come from -/

/-- The records a state may have lost before a step moves and creates records: none under the iteration invariant, since
then nothing waits for processing when an iteration begins (R399). -/
structure Retains (s u : State) : Prop where
  subset : u.registry ⊆ s.registry
  nextSeq : u.nextSeq = s.nextSeq
  all : IterationInv s → u.registry = s.registry

theorem Retains.refl (s : State) : Retains s s := ⟨List.Subset.refl _, rfl, fun _ => rfl⟩

theorem Iterated.movedOrNew {s t : State} {o : WaitOutcome} (hi : RegistryInv s) (h : Iterated s o t) :
    ∃ u, Retains s u ∧ MovedOrNew u t := by
  obtain ⟨u, hu, ⟨_, rfl⟩ | ⟨_, hp, v, hv, rfl⟩⟩ := h.cases
  · exact ⟨s, .refl s, Moved.movedOrNew (s := s) (u := u.endIteration) hu.moved⟩
  · obtain ⟨hsubset, hall⟩ := hu.registry_of_pending hp
    obtain ⟨_, hunique, _, _⟩ := hu.registryOk hi
    have hprocess : MovedOrNew u v := hv.movedOrNew hunique
    exact ⟨u, ⟨hsubset, hu.nextSeq_eq, fun hiter => hall (hiter h.1).1⟩, hprocess⟩

theorem step_movedOrNew {s t : State} (hi : RegistryInv s) (h : step s = .next t) :
    ∃ u, Retains s u ∧ MovedOrNew u t := by
  rcases step_cases h with ⟨_, rfl⟩ | ⟨_, _, _, ⟨u, hu, he⟩ | ⟨_, u, _, hu, rfl⟩⟩
  · exact ⟨t, .refl t, (moved_refl _).movedOrNew⟩
  · obtain ⟨_, hunique, _, _⟩ := hi
    have hhost : MovedOrNew s u := hu.movedOrNew hunique
    rw [he]
    exact ⟨s, .refl s, hhost⟩
  · obtain ⟨w, hretains, hiterated⟩ := Iterated.movedOrNew hi hu
    exact ⟨w, hretains, hiterated⟩

/-- Settles O33: under the iteration invariant a step moves or creates records of the state it starts from. -/
theorem recordsFollowTheStateMachine : Obligations.RecordsFollowTheStateMachine := by
  intro s t hi hiter h q hq
  obtain ⟨u, hretains, hmoved⟩ := step_movedOrNew hi h
  rcases hmoved q hq with ⟨r, hr, hm⟩ | hnew
  · exact .inl ⟨r, hretains.subset hr, hm.keys.2.symm, hm.keys.1.symm, hm.transition⟩
  · have hspec := hnew.as_specified
    rw [hretains.all hiter, hretains.nextSeq] at hspec
    exact .inr hspec

/-- Two records of one sequence number are one record (R48, R300). -/
theorem eq_of_same_seq {reg : List SensorRecord} (h : reg.Pairwise fun r q => q.seq < r.seq) {r q : SensorRecord}
    (hr : r ∈ reg) (hq : q ∈ reg) (hs : r.seq = q.seq) : r = q := by
  have hunique : (reg.map (·.seq)).Nodup := List.pairwise_map.mpr (h.imp fun hlt => (BitVec.ne_of_lt hlt).symm)
  exact List.inj_on_of_nodup_map hunique hr hq hs

/-- Settles O34: a record is known by its `seq`, and a new one carries a `seq` no old record has. -/
theorem countersFollowTheStateMachine : Obligations.CountersFollowTheStateMachine := by
  intro s t hi h r hr q hq hseq
  obtain ⟨u, hretains, hmoved⟩ := step_movedOrNew hi h
  obtain ⟨_, _, hsorted, hbelow⟩ := hi
  rcases hmoved q hq with ⟨r', hr', hm⟩ | hnew
  · rw [eq_of_same_seq hsorted hr (hretains.subset hr') (hseq.trans hm.keys.2)]
    exact hm.counters
  · have hlt : q.seq < q.seq :=
      calc q.seq = r.seq := hseq.symm
        _ < s.nextSeq := hbelow r hr
        _ = q.seq := (hnew.seq.trans hretains.nextSeq).symm
    exact absurd hlt (BitVec.lt_irrefl _)

/-! ### The checks of `add` (R301) -/

/-- The address is one the range check rejects (R102, R301). -/
def OutOfRange (p : Params) (a : Addr) : Prop := p.srcRangeCheck = true ∧ (a < Config.addrMin ∨ Config.addrMax < a)

theorem addCheck_of_outOfRange {s : State} {a : Addr} (h : OutOfRange s.params a) : addCheck s a = .rangeError :=
  if_pos h

theorem addCheck_of_full {s : State} {a : Addr} (hin : ¬ OutOfRange s.params a) (hfull : 32 ≤ s.registry.length) :
    addCheck s a = .capacityExceeded :=
  (if_neg hin).trans (if_pos hfull)

/-- An address in range that finds room is looked up. -/
theorem addCheck_of_room {s : State} {a : Addr} (hin : ¬ OutOfRange s.params a) (hroom : s.registry.length < 32) :
    addCheck s a =
      match findRecord s.registry a with
      | some r => .duplicate r
      | none => if s.nextSeq = BitVec.allOnes 64 then .seqExhausted else .created (newRecord a s.nextSeq) :=
  (if_neg hin).trans (if_neg (Nat.not_le.mpr hroom))

theorem addCheck_of_known {s : State} {a : Addr} (hin : ¬ OutOfRange s.params a) (hroom : s.registry.length < 32)
    {r : SensorRecord} (hf : findRecord s.registry a = some r) : addCheck s a = .duplicate r := by
  rw [addCheck_of_room hin hroom, hf]

theorem addCheck_of_exhausted {s : State} {a : Addr} (hin : ¬ OutOfRange s.params a) (hroom : s.registry.length < 32)
    (habsent : ∀ r ∈ s.registry, r.address ≠ a) (hseq : s.nextSeq = BitVec.allOnes 64) :
    addCheck s a = .seqExhausted := by
  rw [addCheck_of_room hin hroom, findRecord_eq_none.mpr habsent]
  exact if_pos hseq

theorem addCheck_of_absent {s : State} {a : Addr} (hin : ¬ OutOfRange s.params a) (hroom : s.registry.length < 32)
    (habsent : ∀ r ∈ s.registry, r.address ≠ a) (hseq : s.nextSeq ≠ BitVec.allOnes 64) :
    addCheck s a = .created (newRecord a s.nextSeq) := by
  rw [addCheck_of_room hin hroom, findRecord_eq_none.mpr habsent]
  exact if_neg hseq

/-! ### The commands that look up (R303, R305, R307) -/

theorem exec_regFind {s : State} {o : Option SensorRecord} (h : findRecord s.registry s.ports.a = o) :
    exec .regFind s = .next (s.finish (lookupPorts o)) := by
  rw [exec, execRegFind, h]

theorem exec_regEarliest {s : State} {o : Option SensorRecord} (h : findEarliest s.registry = o) :
    exec .regEarliest s = .next (s.finish (lookupPorts o)) := by
  rw [exec, execRegEarliest, h]

theorem exec_regOffline {s : State} {o : Option SensorRecord} (h : findOffline s.registry s.ports.t.toNat = o) :
    exec .regOffline s = .next (s.finish (lookupPorts o)) := by
  rw [exec, execRegOffline, h]

/-- The record of an address is the one the lookup finds, since addresses are unique. -/
theorem findRecord_of_mem {reg : List SensorRecord} (hunique : (reg.map (·.address)).Nodup) {a : Addr}
    {r : SensorRecord} (hr : r ∈ reg) (ha : r.address = a) : findRecord reg a = some r :=
  ha ▸ findRecord_eq_some hunique hr

/-- Of the offline records the lookup finds the one of largest `seq` (R300, R307). -/
theorem findOffline_eq_some {reg : List SensorRecord} (hsorted : reg.Pairwise fun r q => q.seq < r.seq) {n : Nat}
    {r : SensorRecord} (hr : r ∈ reg) (hn : n ≤ r.deficit.toNat)
    (hlast : ∀ q ∈ reg, n ≤ q.deficit.toNat → q.seq ≤ r.seq) : findOffline reg n = some r := by
  cases hf : findOffline reg n with
  | none => exact absurd hn (findOffline_eq_none.mp hf r hr)
  | some q =>
    obtain ⟨hq, hqn⟩ := findOffline_some hf
    have hseq : q.seq = r.seq := BitVec.le_antisymm (hlast q hq hqn) (findOffline_newest hsorted hf r hr hn)
    rw [eq_of_same_seq hsorted hq hr hseq]

/-- Settles O23: with unique addresses the lookup finds the record of the address where there is one. -/
theorem regFindCommand : Obligations.RegFindCommand := by
  refine ⟨decodeOfEncodeIsTheInstruction .regFind, fun s hi => ?_⟩
  obtain ⟨_, hunique, _, _⟩ := hi
  exact ⟨fun r hr ha => exec_regFind (findRecord_of_mem hunique hr ha),
    fun habsent => exec_regFind (findRecord_eq_none.mpr habsent)⟩

/-- Settles O27: the selection answers a record no other is polled before, and only an empty registry has none. -/
theorem regEarliestCommand : Obligations.RegEarliestCommand := by
  refine ⟨decodeOfEncodeIsTheInstruction .regEarliest, fun s => ⟨fun hempty => ?_, fun hne => ?_⟩⟩
  · exact exec_regEarliest (findEarliest_eq_none.mpr hempty)
  · cases hf : findEarliest s.registry with
    | none => exact absurd (findEarliest_eq_none.mp hf) hne
    | some r =>
      obtain ⟨hr, hearliest⟩ := findEarliest_spec hf
      exact ⟨r, hr, exec_regEarliest hf, hearliest⟩

/-- Settles O28: the first offline record in iteration order is the newest. -/
theorem regOfflineCommand : Obligations.RegOfflineCommand := by
  refine ⟨decodeOfEncodeIsTheInstruction .regOffline, fun s hi => ?_⟩
  obtain ⟨_, _, hsorted, _⟩ := hi
  exact ⟨fun hnone => exec_regOffline (findOffline_eq_none.mpr fun r hr => Nat.not_le.mpr (hnone r hr)),
    fun r hr hn hlast => exec_regOffline (findOffline_eq_some hsorted hr hn hlast)⟩

/-- Settles O31: both answer from the list as it stands, which the invariant keeps in descending order of `seq`. -/
theorem regSizeAndRegListCommands : Obligations.RegSizeAndRegListCommands := by
  refine ⟨decodeOfEncodeIsTheInstruction .regSize, decodeOfEncodeIsTheInstruction .regList, fun s hi => ⟨rfl, ?_⟩⟩
  obtain ⟨_, _, hsorted, _⟩ := hi
  exact ⟨s.registry, rfl, .refl _, hsorted⟩

/-! ### The commands that change one record (R304, R308, R309) -/

section Stopped

variable {s : State} (hr : s.running = false)
include hr

theorem exec_regRemove_of_absent (hf : findRecord s.registry s.ports.a = none) :
    exec .regRemove s = .next (s.raise .notFound) := by
  simp [exec, execRegRemove, hr, hf]

theorem exec_regRemove_of_found {r : SensorRecord} (hf : findRecord s.registry s.ports.a = some r) :
    exec .regRemove s = .next ((s.removeRecord s.ports.a).finish { status := .ok }) := by
  simp [exec, execRegRemove, hr, hf]

theorem exec_regPollreq_of_absent (hf : findRecord s.registry s.ports.a = none) :
    exec .regPollreq s = .next (s.raise .notFound) := by
  simp [exec, execRegPollreq, hr, hf]

theorem exec_regPollreq_of_found {r : SensorRecord} (hf : findRecord s.registry s.ports.a = some r) :
    exec .regPollreq s = .next ((s.updateRecord s.ports.a (·.pollRequested s.ports.now)).finish
      { status := .ok, record := some (r.pollRequested s.ports.now) }) := by
  simp [exec, execRegPollreq, hr, hf]

theorem exec_regPollrsp_of_absent (hf : findRecord s.registry s.ports.a = none) :
    exec .regPollrsp s = .next (s.raise .notFound) := by
  simp [exec, execRegPollrsp, hr, hf]

theorem exec_regPollrsp_of_mismatch {r : SensorRecord} (hf : findRecord s.registry s.ports.a = some r)
    (hs : r.state ≠ .pollRequested) : exec .regPollrsp s = .next (s.raise .stateMismatch) := by
  simp [exec, execRegPollrsp, hr, hf, hs]

theorem exec_regPollrsp_of_requested {r : SensorRecord} (hf : findRecord s.registry s.ports.a = some r)
    (hs : r.state = .pollRequested) :
    exec .regPollrsp s = .next ((s.updateRecord s.ports.a (·.pollResponded s.ports.rd)).finish
      { status := .ok, record := some (r.pollResponded s.ports.rd) }) := by
  simp [exec, execRegPollrsp, hr, hf, hs]

end Stopped

theorem State.updateRecord_eq_map {s : State} (hunique : (s.registry.map (·.address)).Nodup) {a : Addr}
    {r : SensorRecord} (hr : r ∈ s.registry) (ha : r.address = a) (f : SensorRecord → SensorRecord) :
    s.updateRecord a f = { s with registry := s.registry.map fun q => if q = r then f r else q } := by
  rw [State.updateRecord, ← ha, Sys2Proof.Machine.updateRecord_eq_map hunique hr f]

/-- Removing a record that is there takes away one (R304). -/
theorem removeRecord_length {reg : List SensorRecord} (hunique : (reg.map (·.address)).Nodup) {r : SensorRecord}
    (hr : r ∈ reg) : (removeRecord reg r.address).length + 1 = reg.length := by
  have herase : removeRecord reg r.address = reg.erase r := by
    rw [removeRecord_eq_filter hunique hr, hunique.of_map.erase_eq_filter]
    exact List.filter_congr fun q _ => decide_not
  rw [herase, List.length_erase_add_one hr]

/-- Settles O26: with unique addresses the filter drops one record, the one of the address. -/
theorem regRemoveCommand : Obligations.RegRemoveCommand := by
  refine ⟨decodeOfEncodeIsTheInstruction .regRemove, fun s hi => ⟨exec_of_mutating_of_running rfl,
    fun hrun habsent => exec_regRemove_of_absent hrun (findRecord_eq_none.mpr habsent), fun hrun r hr ha => ?_⟩⟩
  obtain ⟨_, hunique, _, _⟩ := hi
  refine ⟨_, exec_regRemove_of_found hrun (findRecord_of_mem hunique hr ha), rfl, ?_⟩
  simp only [State.finish_registry, State.removeRecord, ← ha]
  refine ⟨fun q => ?_, removeRecord_length hunique hr, fun q hq => (mem_removeRecord.mp hq).2⟩
  rw [removeRecord_eq_filter hunique hr]
  simp

/-- Settles O29: the guard, then the lookup; the record found is the only one the update changes. -/
theorem regPollreqCommand : Obligations.RegPollreqCommand := by
  refine ⟨decodeOfEncodeIsTheInstruction .regPollreq, fun s hi => ⟨exec_of_mutating_of_running rfl,
    fun hrun habsent => exec_regPollreq_of_absent hrun (findRecord_eq_none.mpr habsent), fun hrun r hr ha => ?_⟩⟩
  obtain ⟨_, hunique, _, _⟩ := hi
  rw [exec_regPollreq_of_found hrun (findRecord_of_mem hunique hr ha), State.updateRecord_eq_map hunique hr ha]
  rfl

/-- Settles O30: the guard, then the lookup, then the record's state; the update changes the record found only. -/
theorem regPollrspCommand : Obligations.RegPollrspCommand := by
  refine ⟨decodeOfEncodeIsTheInstruction .regPollrsp, fun s hi => ?_⟩
  obtain ⟨_, hunique, _, _⟩ := hi
  refine ⟨exec_of_mutating_of_running rfl,
    fun hrun habsent => exec_regPollrsp_of_absent hrun (findRecord_eq_none.mpr habsent),
    fun hrun r hr ha hs => exec_regPollrsp_of_mismatch hrun (findRecord_of_mem hunique hr ha) hs,
    fun hrun r hr ha hs => ?_⟩
  rw [exec_regPollrsp_of_requested hrun (findRecord_of_mem hunique hr ha) hs,
    State.updateRecord_eq_map hunique hr ha]
  rfl

/-! ### Creation (R301, R302) -/

/-- What `REG_ADD` answers to each result of its checks. -/
def answerAdd (s : State) : AddResult → Out
  | .rangeError => .next (s.raise .rangeError)
  | .capacityExceeded => .next (s.raise .capacityExceeded)
  | .seqExhausted => .refused .seqExhausted
  | .duplicate r =>
    .next ((s.addLog (.duplicateReg s.ports.a)).finish { status := .ok, res := some 1, record := some r })
  | .created r => .next ((s.insertRecord r).finish { status := .ok, res := some 0, record := some r })

theorem exec_regAdd_of_stopped {s : State} (hr : s.running = false) {c : AddResult}
    (hc : addCheck s s.ports.a = c) : exec .regAdd s = answerAdd s c := by
  rw [exec, execRegAdd, whenStopped_of_stopped hr, hc]
  cases c <;> rfl

/-- Settles O24: the guard, then the result of the checks in their order. -/
theorem regAddCommand : Obligations.RegAddCommand := by
  refine ⟨decodeOfEncodeIsTheInstruction .regAdd, fun s => ⟨exec_of_mutating_of_running rfl, ?_, ?_, ?_, ?_⟩⟩
  · exact fun hr hout => exec_regAdd_of_stopped hr (addCheck_of_outOfRange hout)
  · exact fun hr hin hfull => exec_regAdd_of_stopped hr (addCheck_of_full hin hfull)
  · exact fun hr hin hroom hunique r hmem ha =>
      exec_regAdd_of_stopped hr (addCheck_of_known hin hroom (findRecord_of_mem hunique hmem ha))
  · exact fun hr hin hroom habsent hseq => exec_regAdd_of_stopped hr (addCheck_of_absent hin hroom habsent hseq)

/-- The state a radio read of the bytes `v` leaves for processing (R374). -/
def State.received (s : State) (v : List Byte) : State := { s.armed.setBuf .rrb v with intent := .processing }

theorem radioRead_of_ready {s : State} {v : List Byte} (h : ReadyToRead s v) :
    s.armed.radioRead (.bytes v) = s.received v := by
  have hcontents : s.armed.bufs.rrb ++ v = v := by rw [State.armed, h.rrbEmpty, List.nil_append]
  have hfits : v.length ≤ s.armed.params.bufCap := h.fits
  rw [State.radioRead, hcontents, State.ctlBufWrite_of_fits hfits]
  rfl

theorem admissible_of_ready {s : State} {v : List Byte} (h : ReadyToRead s v) :
    admissible s s.ports.iores .rxRdy = true := by
  simp [admissible, readResultFits, h.quiet, h.armed, h.iores, h.rrbEmpty, h.nonempty, h.fits, Intent.readRadio]

/-- A ready engine processes the bytes it reads (R374, R378). -/
theorem exec_engIterRxrdy_of_ready {s : State} {v : List Byte} (h : ReadyToRead s v) :
    exec .engIterRxrdy s = andThen (process (s.received v)) fun s => .next s.endIteration := by
  have hrun : (s.received v).running = true := h.running
  rw [exec, execEngIterRxrdy, engIter_of_admissible h.running (admissible_of_ready h), h.iores, radioRead_of_ready h,
    processIfPending_of_pending hrun rfl]

theorem process_of_decoded {s : State} {pkt : Packet} (h : decodeBytes s.params s.bufs.rrb = .ok pkt) :
    process s = andThen (dispatch pkt s) fun s => .next s.endProcess := by
  rw [process, h]

/-- A registration that would create a record finds no sequence number left. -/
theorem dispatch_of_exhausted {s : State} {pkt : Packet} (hcmd : pkt.command = s.params.cmdRreq)
    (hdest : pkt.dest = Config.broadcast) (hc : addCheck s pkt.src = .seqExhausted) :
    dispatch pkt s = .refused .seqExhausted := by
  simp [dispatch, dispatchRegisterRequest, hcmd, hdest, hc]

/-- Settles O25: both creations go through the same checks, which refuse the last sequence number. -/
theorem exhaustedSequenceIsRefused : Obligations.ExhaustedSequenceIsRefused := by
  intro s hseq hsrc hroom
  have hin : ∀ a, ¬ OutOfRange s.params a := fun a hout => Bool.false_ne_true (hsrc.symm.trans hout.1)
  refine ⟨fun hr habsent => exec_regAdd_of_stopped hr (addCheck_of_exhausted (hin _) hroom habsent hseq),
    fun v pkt hready hdecode hcmd hdest habsent => ?_⟩
  have hdecode' : decodeBytes (s.received v).params (s.received v).bufs.rrb = .ok pkt := hdecode
  have hcheck : addCheck (s.received v) pkt.src = .seqExhausted :=
    addCheck_of_exhausted (s := s.received v) (hin _) hroom habsent hseq
  rw [exec_engIterRxrdy_of_ready hready, process_of_decoded hdecode',
    dispatch_of_exhausted (s := s.received v) hcmd hdest hcheck]
  rfl

end Sys2Proof.Machine
end

section
/-!
The statements about the relay engine (spec/43_relay_fsm.md). Under the iteration invariant an iteration has one of
eight effects (`IterationEffect`), each with the wait outcome and the I/O result that brought it about; the three
whole-machine statements are read off these. The statements about single commands evaluate the outcome's rule
(`exec_iterOf_of_settled`), or `process()` for a radio read of bytes (`exec_engIterRxrdy_of_dispatch`).
-/

namespace Sys2Proof.Machine

open Sys2Proof.Claims Sys2Proof.Safety

/-! ### Iterations that have nothing to process (R378) -/

/-- The processing check passes the state over: the engine stopped, or nothing is pending. -/
def Settled (s : State) : Prop := s.running = true → s.intent.processPending = false

theorem settled_of_stopped {s : State} (h : s.running = false) : Settled s :=
  fun hr => absurd (h.symm.trans hr) Bool.false_ne_true

theorem processIfPending_of_settled {s : State} (h : Settled s) : processIfPending s = .next s := by
  cases hr : s.running with
  | false => exact processIfPending_of_stopped hr
  | true => exact processIfPending_of_idle (h hr)

theorem settled_armed {s : State} (h : s.intent.processPending = false) : Settled s.armed := fun _ => h

/-- A tick leaves something to process only where it stood pending before. -/
theorem settled_tick {s : State} (h : s.intent.processPending = false) (now : Time) : Settled (s.tick now) := by
  refine fun _ => Bool.eq_false_iff.mpr fun hp => ?_
  obtain ⟨hs, _⟩ := State.tick_of_pending hp
  exact Bool.false_ne_true (h.symm.trans hs)

/-! ### What an iteration does under the iteration invariant (R399) -/

/-- What an iteration of outcome `o` does to a running engine, up to its status. -/
inductive IterationEffect (s : State) : WaitOutcome → State → Prop where
  | keep (o : WaitOutcome) : IterationEffect s o s.armed
  | hardErr : IterationEffect s .hardErr (s.armed.fatal .io)
  | ioFailure (o : WaitOutcome) (ho : o ∈ [WaitOutcome.rxRdy, .txRdy, .udpRdy])
      (hio : s.ports.iores = .error ∨ s.ports.iores = .eof) : IterationEffect s o (s.armed.fatal .io)
  | graceful (hc : s.ctrlPending = true) : IterationEffect s .ctrl s.armed.gracefulStop
  | tick : IterationEffect s .timeout (s.armed.tick s.ports.now)
  | processed (v : List Byte) (w : State) (h : ReadyToRead s v) (hw : ProcessEffect (s.received v) w) :
      IterationEffect s .rxRdy w.endProcess
  | sent (hi : s.intent = .writeRadio) :
      IterationEffect s .txRdy
        { s.armed.setBuf .rwb [] with radioTx := s.radioTx ++ [s.bufs.rwb], intent := .readRadio }
  | udpSent (hi : s.intent = .writeUdp) :
      IterationEffect s .udpRdy
        { s.armed.setBuf .uwb [] with
          udpTx := s.udpTx ++ [⟨s.sServerIp, s.sServerPort, s.bufs.uwb⟩], intent := .readRadio }

/-- Of the three combinations of intent flags a running engine can show, one wants each handle (R64, R399). -/
theorem intent_of_want {i : Intent} (h : i = .readRadio ∨ i = .writeRadio ∨ i = .writeUdp) :
    (i.wantReadRadio = true → i = .readRadio) ∧ (i.wantWriteRadio = true → i = .writeRadio) ∧
      (i.wantWriteUdp = true → i = .writeUdp) := by
  rcases h with rfl | rfl | rfl <;> decide

theorem admissible_rxRdy {s : State} {io : IoRes} :
    admissible s io .rxRdy = true ↔ s.ctrlPending = false ∧ s.intent.wantReadRadio = true ∧
      readResultFits s.params.bufCap s.bufs.rrb.length io = true := by
  simp [admissible, and_assoc]

theorem admissible_txRdy {s : State} {io : IoRes} :
    admissible s io .txRdy = true ↔
      s.ctrlPending = false ∧ s.intent.wantWriteRadio = true ∧ writeResult io = true := by
  simp [admissible, and_assoc]

theorem admissible_udpRdy {s : State} {io : IoRes} :
    admissible s io .udpRdy = true ↔
      s.ctrlPending = false ∧ s.intent.wantWriteUdp = true ∧ writeResult io = true := by
  simp [admissible, and_assoc]

theorem readResultFits_bytes {cap used : Nat} {v : List Byte} :
    readResultFits cap used (.bytes v) = true ↔ 1 ≤ v.length ∧ v.length + used ≤ cap := by
  rw [readResultFits, decide_eq_true_eq]
  omega

/-- Everything an iteration that ran can have done to an engine that met the iteration invariant. -/
theorem Iterated.effect {s t : State} {o : WaitOutcome} (hi : IterationInv s) (h : Iterated s o t) :
    ∃ u, IterationEffect s o u ∧ t = u.endIteration := by
  obtain ⟨hr, ha, u, hu, rfl⟩ := h
  obtain ⟨hp, hrrb, _, harmed, _, _⟩ := hi hr
  obtain ⟨hread, hwrite, hsend⟩ := intent_of_want harmed
  refine ⟨u, ?_, rfl⟩
  have effect {x : State} (hx : ruleOf s o s.armed = x) (hsettled : Settled x) (he : IterationEffect s o x) :
      IterationEffect s o u := by
    rw [hx, processIfPending_of_settled hsettled] at hu
    cases hu
    exact he
  have kept (hx : ruleOf s o s.armed = s.armed) : IterationEffect s o u :=
    effect hx (settled_armed hp) (.keep o)
  cases o with
  | hardErr => exact effect rfl (settled_of_stopped rfl) .hardErr
  | intr => exact kept rfl
  | timeout => exact effect rfl (settled_tick (s := s.armed) hp _) .tick
  | ctrl => exact effect rfl (settled_of_stopped rfl) (.graceful ha)
  | rxRdy =>
    obtain ⟨hquiet, hwant, hfits⟩ := admissible_rxRdy.mp ha
    cases hio : s.ports.iores with
    | bytes v =>
      rw [hio, hrrb] at hfits
      obtain ⟨hnonempty, hv⟩ := readResultFits_bytes.mp hfits
      have hready : ReadyToRead s v := ⟨hr, hquiet, hread hwant, hrrb, hio, hnonempty, hv⟩
      have hrule : ruleOf s .rxRdy s.armed = s.received v :=
        (congrArg s.armed.radioRead hio).trans (radioRead_of_ready hready)
      rw [hrule, processIfPending_of_pending (s := s.received v) hr rfl] at hu
      obtain ⟨w, hw, rfl⟩ := process_effect hu
      exact .processed v w hready hw
    | eof =>
      exact effect (congrArg s.armed.radioRead hio) (settled_of_stopped rfl) (.ioFailure _ (by decide) (.inr hio))
    | error =>
      exact effect (congrArg s.armed.radioRead hio) (settled_of_stopped rfl) (.ioFailure _ (by decide) (.inl hio))
    | wouldBlock | ok => exact kept (congrArg s.armed.radioRead hio)
  | txRdy =>
    obtain ⟨_, hwant, _⟩ := admissible_txRdy.mp ha
    cases hio : s.ports.iores with
    | ok => exact effect (congrArg s.armed.radioWrite hio) (fun _ => rfl) (.sent (hwrite hwant))
    | error =>
      exact effect (congrArg s.armed.radioWrite hio) (settled_of_stopped rfl) (.ioFailure _ (by decide) (.inl hio))
    | bytes _ | eof | wouldBlock => exact kept (congrArg s.armed.radioWrite hio)
  | udpRdy =>
    obtain ⟨_, hwant, _⟩ := admissible_udpRdy.mp ha
    cases hio : s.ports.iores with
    | ok => exact effect (congrArg s.armed.udpSend hio) (fun _ => rfl) (.udpSent (hsend hwant))
    | error =>
      exact effect (congrArg s.armed.udpSend hio) (settled_of_stopped rfl) (.ioFailure _ (by decide) (.inl hio))
    | bytes _ | eof | wouldBlock => exact kept (congrArg s.armed.udpSend hio)

/-- A running engine takes no host command but `ENG_STOP` (R112). -/
theorem HostEffect.of_running {s u : State} (h : HostEffect s u) (hr : s.running = true) :
    u = s ∨ u = { s with ctrlPending := true } := by
  have absurd_of_stopped (hs : s.running = false) : u = s ∨ u = { s with ctrlPending := true } :=
    absurd (hs.symm.trans hr) Bool.false_ne_true
  cases h with
  | keep => exact .inl rfl
  | stop _ => exact .inr rfl
  | write b v hs _ => exact absurd_of_stopped hs
  | duplicate a hs | remove a hs => exact absurd_of_stopped hs
  | create a r hs _ => exact absurd_of_stopped hs
  | pollReq a now hs => exact absurd_of_stopped hs
  | pollRsp a rd r hs _ _ => exact absurd_of_stopped hs
  | start hs _ => exact absurd_of_stopped hs
  | cfg n v hs _ => exact absurd_of_stopped hs

/-! ### Every step keeps the invariant (R399) -/

theorem readRadio_ne_writeRadio : Intent.readRadio ≠ .writeRadio := by decide

theorem writeUdp_ne_writeRadio : Intent.writeUdp ≠ .writeRadio := by decide

/-- The invariant's clause on `RWB`, where the radio write is not armed. -/
theorem rwb_iff_of_empty {b : List Byte} {i : Intent} (hb : b = []) (hi : i ≠ .writeRadio) :
    b ≠ [] ↔ i = .writeRadio := iff_of_false (not_not.mpr hb) hi

theorem iterationInv_of_stopped {s : State} (h : s.running = false) : IterationInv s :=
  fun hr => absurd (h.symm.trans hr) Bool.false_ne_true

theorem HostEffect.iterationInv {s u : State} (hs : IterationInv s) (h : HostEffect s u) : IterationInv u := by
  cases hr : s.running with
  | true => rcases h.of_running hr with rfl | rfl <;> exact hs
  | false =>
    cases h with
    | start _ _ => exact fun _ => ⟨rfl, rfl, rfl, .inl rfl, rwb_iff_of_empty rfl readRadio_ne_writeRadio, nofun⟩
    | cfg n v _ _ => cases n <;> exact iterationInv_of_stopped hr
    | _ => exact iterationInv_of_stopped hr

/-- A tick arms no handle but the radio write, for the packet it stages (R380, R382). -/
theorem State.tick_cases (s : State) (now : Time) :
    ((s.tick now).intent = s.intent ∧ (s.tick now).bufs = s.bufs ∧ (s.tick now).running = s.running) ∨
      (∃ p, p ≠ [] ∧ (s.tick now).intent = .writeRadio ∧ (s.tick now).bufs = { s.bufs with rwb := p } ∧
        (s.tick now).running = s.running) ∨
      (s.params.bufCap < 14 ∧ ∃ u : State, s.tick now = u.fatal .alloc) := by
  have hevict : s.evictOffline.intent = s.intent ∧ s.evictOffline.bufs = s.bufs ∧
      s.evictOffline.running = s.running ∧ s.evictOffline.params = s.params := by
    rcases s.evictOffline_cases with ⟨_, e⟩ | ⟨_, _, e⟩ <;> rw [e] <;> exact ⟨rfl, rfl, rfl, rfl⟩
  obtain ⟨hintent, hbufs, hrun, hparams⟩ := hevict
  rw [State.tick, ← hintent, ← hbufs, ← hrun, ← hparams]
  rcases s.evictOffline.pollEarliest_cases now with ⟨_, e⟩ | ⟨_, _, ⟨_, e⟩ | ⟨hcap, e⟩⟩ <;> rw [e]
  · exact .inl ⟨rfl, rfl, rfl⟩
  · exact .inr (.inl ⟨_, serialize_ne_nil _ _ _ _ _, rfl, rfl, rfl⟩)
  · exact .inr (.inr ⟨hcap, _, rfl⟩)

/-- How the processing of the bytes `v` a ready engine read can end (R390..R398). -/
inductive ProcessEnd (s : State) (v : List Byte) (t : State) : Prop where
  | dropped (hi : t.intent = .readRadio) (hb : t.bufs = { s.bufs with rrb := [] }) (hr : t.running = s.running)
  | replied (p : List Byte) (hp : p ≠ []) (hi : t.intent = .writeRadio)
      (hb : t.bufs = { s.bufs with rrb := [], rwb := p }) (hr : t.running = s.running)
  | forwarded (pkt : Packet) (r : SensorRecord) (hd : decodeBytes s.params v = .ok pkt)
      (hc : pkt.command = s.params.cmdDrsp) (ht : pkt.dest = s.sLocal) (hl : pkt.contentLength = Config.clData)
      (hf : findRecord s.registry pkt.src = some r) (hs : r.state = .pollRequested) (hi : t.intent = .writeUdp)
      (hb : t.bufs = { s.bufs with rrb := [], uwb := slice v (pkt.offset + 4) 19 }) (hr : t.running = s.running)
  | overflowed (hcap : s.params.bufCap < 19) (hi : t.intent = .clear) (hr : t.running = false)

theorem State.stageRegisterResponse_end {s u : State} {v : List Byte} {src : Addr} (hp : u.params = s.params)
    (hb : u.bufs = { s.bufs with rrb := v }) (hr : u.running = s.running) :
    ProcessEnd s v (u.stageRegisterResponse src).endProcess := by
  rcases u.stageRegisterResponse_cases src with ⟨_, e⟩ | ⟨hcap, e⟩ <;> rw [e]
  · refine .replied (serialize u.params u.params.cmdRrsp src u.sLocal none) (serialize_ne_nil _ _ _ _ _) rfl ?_ hr
    simp [hb]
  · exact .overflowed (by rw [← hp]; omega) rfl rfl

theorem ProcessEffect.ended {s w : State} {v : List Byte} (h : ProcessEffect (s.received v) w) :
    ProcessEnd s v w.endProcess := by
  cases h with
  | dropped e => exact .dropped rfl rfl rfl
  | duplicate src r _ => exact State.stageRegisterResponse_end rfl rfl rfl
  | created src r _ => exact State.stageRegisterResponse_end rfl rfl rfl
  | response pkt rd r hd hc ht hl _ hf hs =>
    rcases (s.received v).stageDatagram_cases pkt rd with ⟨_, e⟩ | ⟨hcap, e⟩ <;> rw [e]
    · exact .forwarded pkt r hd hc ht hl hf hs rfl rfl rfl
    · rw [slice_length] at hcap
      exact .overflowed (Nat.lt_of_lt_of_le hcap (Nat.min_le_left ..)) rfl rfl

theorem IterationEffect.iterationInv {s u : State} {o : WaitOutcome} (hr : s.running = true) (hs : IterationInv s)
    (h : IterationEffect s o u) : IterationInv u := by
  obtain ⟨_, hrrb, hurb, _, hrwb, _⟩ := hs hr
  have hunsent (hi : s.intent ≠ .writeRadio) : s.bufs.rwb = [] := not_not.mp (mt hrwb.mp hi)
  cases h with
  | keep _ => exact hs
  | hardErr | ioFailure _ _ _ | graceful _ => exact iterationInv_of_stopped rfl
  | tick =>
    rcases s.armed.tick_cases s.ports.now with ⟨hi, hb, _⟩ | ⟨p, hne, hi, hb, _⟩ | ⟨_, _, e⟩
    · rw [IterationInv, hi, hb]
      exact fun _ => hs hr
    · rw [IterationInv, hi, hb]
      exact fun _ => ⟨rfl, hrrb, hurb, .inr (.inl rfl), iff_of_true hne rfl, nofun⟩
    · rw [e]
      exact iterationInv_of_stopped rfl
  | processed v w hready hw =>
    have hempty : s.bufs.rwb = [] := hunsent (hready.armed ▸ readRadio_ne_writeRadio)
    cases hw.ended with
    | dropped hi hb _ =>
      rw [IterationInv, hi, hb]
      exact fun _ => ⟨rfl, rfl, hurb, .inl rfl, rwb_iff_of_empty hempty readRadio_ne_writeRadio, nofun⟩
    | replied p hne hi hb _ =>
      rw [IterationInv, hi, hb]
      exact fun _ => ⟨rfl, rfl, hurb, .inr (.inl rfl), iff_of_true hne rfl, nofun⟩
    | forwarded pkt r hd _ _ hl _ _ hi hb _ =>
      have hne : slice v (pkt.offset + 4) 19 ≠ [] := by
        obtain ⟨_, hlen⟩ := decodeBytes_data hd hl
        rw [← List.length_pos_iff, slice_length]
        omega
      rw [IterationInv, hi, hb]
      exact fun _ => ⟨rfl, rfl, hurb, .inr (.inr rfl), rwb_iff_of_empty hempty writeUdp_ne_writeRadio, fun _ => hne⟩
    | overflowed _ _ hstop => exact iterationInv_of_stopped hstop
  | sent _ => exact fun _ => ⟨rfl, hrrb, hurb, .inl rfl, rwb_iff_of_empty rfl readRadio_ne_writeRadio, nofun⟩
  | udpSent hi =>
    have hempty : s.bufs.rwb = [] := hunsent (hi ▸ writeUdp_ne_writeRadio)
    exact fun _ => ⟨rfl, hrrb, hurb, .inl rfl, rwb_iff_of_empty hempty readRadio_ne_writeRadio, nofun⟩

/-- Settles O53: an idle step keeps everything, a running engine takes no host command, and each effect of an iteration
leaves the buffers its next intent needs. -/
theorem everyStepKeepsIterationInv : Obligations.EveryStepKeepsIterationInv := by
  intro s t hs h
  rcases step_cases h with ⟨_, rfl⟩ | ⟨_, _, _, ⟨u, hu, he⟩ | ⟨_, u, _, hu, rfl⟩⟩
  · exact hs
  · have hinv : IterationInv u := hu.iterationInv hs
    rw [he]
    exact hinv
  · obtain ⟨w, hw, rfl⟩ := hu.effect hs
    have hinv : IterationInv w := hw.iterationInv hu.1 hs
    exact hinv

/-! ### When the engine stops (R400, R401) -/

theorem State.ports_of_pending {s : State} {c : Command} {rest : List Command} (hp : s.pending = c :: rest) :
    s.ports = c.ports := by rw [State.ports, hp]

theorem IterationEffect.stops {s u : State} {o : WaitOutcome} (hcap : 23 ≤ s.params.bufCap) (hr : s.running = true)
    (h : IterationEffect s o u) (hu : u.running = false) :
    (o = .hardErr ∧ u.exitCause = .fatalIo) ∨ (o = .ctrl ∧ s.ctrlPending = true ∧ u.exitCause = .graceful) ∨
      (o ∈ [WaitOutcome.rxRdy, .txRdy, .udpRdy] ∧ (s.ports.iores = .error ∨ s.ports.iores = .eof) ∧
        u.exitCause = .fatalIo) := by
  have absurd_of_running {P : Prop} (hrun : u.running = s.running) : P :=
    absurd (hu.symm.trans (hrun.trans hr)) Bool.false_ne_true
  cases h with
  | hardErr => exact .inl ⟨rfl, rfl⟩
  | graceful hc => exact .inr (.inl ⟨rfl, hc, rfl⟩)
  | ioFailure _ ho hio => exact .inr (.inr ⟨ho, hio, rfl⟩)
  | tick =>
    rcases s.armed.tick_cases s.ports.now with ⟨_, _, hrun⟩ | ⟨_, _, _, _, hrun⟩ | ⟨hsmall, _⟩
    · exact absurd_of_running hrun
    · exact absurd_of_running hrun
    · exact absurd (le_trans (by decide) hcap) (Nat.not_le.mpr hsmall)
  | processed v w _ hw =>
    cases hw.ended with
    | dropped _ _ hrun => exact absurd_of_running hrun
    | replied _ _ _ _ hrun => exact absurd_of_running hrun
    | forwarded _ _ _ _ _ _ _ _ _ _ hrun => exact absurd_of_running hrun
    | overflowed hsmall _ _ => exact absurd (le_trans (by decide) hcap) (Nat.not_le.mpr hsmall)
  | keep _ | sent _ | udpSent _ => exact absurd_of_running rfl

/-- Settles O55: no host command stops the engine, and an iteration stops it in three of its effects only. -/
theorem engineStopsOnlyOnFailureOrShutdown : Obligations.EngineStopsOnlyOnFailureOrShutdown := by
  intro s t hcap hi hr h hstop
  rcases step_cases h with ⟨_, rfl⟩ | ⟨c, rest, hp, ⟨u, hu, he⟩ | ⟨o, u, hd, hu, rfl⟩⟩
  · exact absurd (hstop.symm.trans hr) Bool.false_ne_true
  · have hrun : u.running = true := by rcases hu.of_running hr with rfl | rfl <;> exact hr
    rw [he] at hstop
    exact absurd (hstop.symm.trans hrun) Bool.false_ne_true
  · obtain ⟨w, hw, rfl⟩ := hu.effect hi
    refine ⟨c, rest, hp, ?_⟩
    rw [← State.ports_of_pending hp, hd]
    rcases hw.stops hcap hr hstop with ⟨rfl, hcause⟩ | ⟨rfl, hctrl, hcause⟩ | ⟨ho, hio, hcause⟩
    · exact .inl ⟨rfl, hcause⟩
    · exact .inr (.inl ⟨rfl, hctrl, hcause⟩)
    · exact .inr (.inr ⟨List.mem_map_of_mem (f := fun o => Except.ok (iterOf o)) ho, hio, hcause⟩)

/-! ### What reaches the UDP output (R402) -/

/-- The UDP output and the wait timeout are the same: a tick or a dispatch changes neither. -/
def SameUdpAndTimeout (s u : State) : Prop := u.udpTx = s.udpTx ∧ u.waitTimeout = s.waitTimeout

theorem State.tick_sameUdpAndTimeout (s : State) (now : Time) : SameUdpAndTimeout s (s.tick now) := by
  have hevict : SameUdpAndTimeout s s.evictOffline := by
    rcases s.evictOffline_cases with ⟨_, e⟩ | ⟨_, _, e⟩ <;> rw [e] <;> exact ⟨rfl, rfl⟩
  rcases s.evictOffline.pollEarliest_cases now with ⟨_, e⟩ | ⟨_, _, ⟨_, e⟩ | ⟨_, e⟩⟩ <;> rw [State.tick, e] <;>
    exact hevict

theorem State.stageRegisterResponse_sameUdpAndTimeout (s : State) (src : Addr) :
    SameUdpAndTimeout s (s.stageRegisterResponse src) := by
  rcases s.stageRegisterResponse_cases src with ⟨_, e⟩ | ⟨_, e⟩ <;> rw [e] <;> exact ⟨rfl, rfl⟩

theorem ProcessEffect.sameUdpAndTimeout {s u : State} (h : ProcessEffect s u) : SameUdpAndTimeout s u := by
  cases h with
  | dropped e => exact ⟨rfl, rfl⟩
  | duplicate src r _ => exact (s.addLog (.duplicateReg src)).stageRegisterResponse_sameUdpAndTimeout src
  | created src r _ => exact (s.insertRecord r).stageRegisterResponse_sameUdpAndTimeout src
  | response pkt rd r _ _ _ _ _ _ _ =>
    rcases s.stageDatagram_cases pkt rd with ⟨_, e⟩ | ⟨_, e⟩ <;> rw [e] <;> exact ⟨rfl, rfl⟩

/-- The bytes `v` hold, at offset `i`, a data packet for this gateway in answer to a poll (R402). -/
structure SolicitedReadingAt (s : State) (v : List Byte) (i : Nat) : Prop where
  header : ValidHeaderAt s.params v i
  size : byteAt v (i + 2) = 19
  complete : i + 23 ≤ v.length
  content : ValidContentAt s.params v i 19
  dest : word32At v (i + 4) = s.sLocal
  command : byteAt v (i + 12) = s.params.cmdDrsp
  solicited : ∃ r ∈ s.registry, r.address = word32At v (i + 8) ∧ r.state = .pollRequested

theorem solicitedReadingAt_of_decoded {s : State} {v : List Byte} {pkt : Packet} {r : SensorRecord}
    (hd : decodeBytes s.params v = .ok pkt) (hc : pkt.command = s.params.cmdDrsp) (ht : pkt.dest = s.sLocal)
    (hl : pkt.contentLength = Config.clData) (hf : findRecord s.registry pkt.src = some r)
    (hs : r.state = .pollRequested) : SolicitedReadingAt s v pkt.offset := by
  obtain ⟨⟨header, _, complete, content⟩, hpkt⟩ := validPacketAt_of_decodeBytes hd
  obtain ⟨hr, hra⟩ := findRecord_some hf
  have size : byteAt v (pkt.offset + 2) = 19 := (congrArg Packet.contentLength hpkt).symm.trans hl
  rw [size] at complete content
  exact ⟨header, size, complete, content, (congrArg Packet.dest hpkt).symm.trans ht,
    (congrArg Packet.command hpkt).symm.trans hc, r, hr, hra.trans (congrArg Packet.src hpkt), hs⟩

/-- What a step may do about the UDP output: stage a solicited reading it read, send the staged bytes, or keep them. -/
structure UdpGuarded (s t : State) : Prop where
  enter : t.intent = .writeUdp → s.intent ≠ .writeUdp →
    ∃ v i, s.ports.iores = .bytes v ∧ SolicitedReadingAt s v i ∧ t.bufs.uwb = slice v (i + 4) 19
  grow : t.udpTx = s.udpTx ∨
    s.intent = .writeUdp ∧ t.udpTx = s.udpTx ++ [⟨s.sServerIp, s.sServerPort, s.bufs.uwb⟩]
  keep : s.intent = .writeUdp → t.intent = .writeUdp → t.bufs.uwb = s.bufs.uwb

theorem udpGuarded_of_same {s t : State} (hi : t.intent = s.intent) (hb : t.bufs = s.bufs) (hu : t.udpTx = s.udpTx) :
    UdpGuarded s t :=
  ⟨fun ht hs => absurd (hi.symm.trans ht) hs, .inl hu, fun _ _ => by rw [hb]⟩

theorem udpGuarded_of_left {s t : State} (hi : t.intent ≠ .writeUdp)
    (hu : t.udpTx = s.udpTx ∨
      s.intent = .writeUdp ∧ t.udpTx = s.udpTx ++ [⟨s.sServerIp, s.sServerPort, s.bufs.uwb⟩]) : UdpGuarded s t :=
  ⟨fun ht => absurd ht hi, hu, fun _ ht => absurd ht hi⟩

theorem IterationEffect.udpGuarded {s u : State} {o : WaitOutcome} (h : IterationEffect s o u) : UdpGuarded s u := by
  cases h with
  | keep _ => exact udpGuarded_of_same rfl rfl rfl
  | hardErr | ioFailure _ _ _ | graceful _ => exact udpGuarded_of_left nofun (.inl rfl)
  | tick =>
    have hudp : (s.armed.tick s.ports.now).udpTx = s.udpTx := (s.armed.tick_sameUdpAndTimeout _).1
    rcases s.armed.tick_cases s.ports.now with ⟨hi, hb, _⟩ | ⟨_, _, hi, _⟩ | ⟨_, _, e⟩
    · exact udpGuarded_of_same hi hb hudp
    · exact udpGuarded_of_left (by rw [hi]; nofun) (.inl hudp)
    · exact udpGuarded_of_left (by rw [e]; nofun) (.inl hudp)
  | processed v w hready hw =>
    have hudp : w.udpTx = s.udpTx := hw.sameUdpAndTimeout.1
    cases hw.ended with
    | dropped hi _ _ => exact udpGuarded_of_left (by rw [hi]; nofun) (.inl hudp)
    | replied _ _ hi _ _ => exact udpGuarded_of_left (by rw [hi]; nofun) (.inl hudp)
    | overflowed _ hi _ => exact udpGuarded_of_left (by rw [hi]; nofun) (.inl hudp)
    | forwarded pkt r hd hc ht hl hf hs _ hb _ =>
      refine ⟨fun _ _ => ⟨v, pkt.offset, hready.iores, solicitedReadingAt_of_decoded hd hc ht hl hf hs, ?_⟩,
        .inl hudp, fun hi => absurd (hready.armed.symm.trans hi) nofun⟩
      rw [hb]
  | sent _ => exact udpGuarded_of_left nofun (.inl rfl)
  | udpSent hi => exact udpGuarded_of_left nofun (.inr ⟨hi, rfl⟩)

theorem step_udpGuarded {s t : State} (hi : IterationInv s) (hr : s.running = true) (h : step s = .next t) :
    UdpGuarded s t := by
  rcases step_cases h with ⟨_, rfl⟩ | ⟨_, _, _, ⟨u, hu, he⟩ | ⟨_, u, _, hu, rfl⟩⟩
  · exact udpGuarded_of_same rfl rfl rfl
  · rw [he]
    rcases hu.of_running hr with rfl | rfl <;> exact udpGuarded_of_same rfl rfl rfl
  · obtain ⟨w, hw, rfl⟩ := hu.effect hi
    obtain ⟨enter, grow, keep⟩ := hw.udpGuarded
    exact ⟨enter, grow, keep⟩

/-- Settles O56: the only effect that arms the UDP send has decoded the reading it stages. -/
theorem onlyValidatedReadingsReachUdp : Obligations.OnlyValidatedReadingsReachUdp := by
  intro s t c rest hi hr hp h
  obtain ⟨enter, grow, keep⟩ := step_udpGuarded hi hr h
  refine ⟨fun ht hs => ?_, grow, keep⟩
  obtain ⟨v, i, hio, ⟨header, size, complete, content, dest, command, solicited⟩, huwb⟩ := enter ht hs
  exact ⟨v, i, State.ports_of_pending hp ▸ hio, header, size, complete, content, dest, command, solicited, huwb⟩

/-! ### Admissibility and the wait timeout (R364, R368) -/

theorem eq_iterOf_of_outcomeOf {i : Instr} {o : WaitOutcome} (h : outcomeOf i = some o) : i = iterOf o := by
  cases i <;> cases h <;> rfl

/-- The results a write can answer (R146). -/
theorem writeResult_iff {io : IoRes} : writeResult io = true ↔ io = .ok ∨ io = .wouldBlock ∨ io = .error := by
  cases io <;> simp [writeResult]

/-- The results a read can answer (R146, R364). -/
theorem readResultFits_iff {cap used : Nat} {io : IoRes} :
    readResultFits cap used io = true ↔
      (∃ v, io = .bytes v ∧ 1 ≤ v.length ∧ v.length + used ≤ cap) ∨ io = .eof ∨ io = .wouldBlock ∨ io = .error := by
  cases io with
  | bytes v => simp [readResultFits_bytes]
  | _ => simp [readResultFits]

/-- The model's check is the admissibility table (R364). -/
theorem admissible_iff {s : State} {io : IoRes} {o : WaitOutcome} : admissible s io o = true ↔ Admissible s io o := by
  cases o with
  | hardErr | intr => exact iff_of_true rfl trivial
  | timeout => exact iff_of_eq (Bool.not_eq_true' _)
  | ctrl => exact Iff.rfl
  | rxRdy => rw [admissible_rxRdy, readResultFits_iff]; rfl
  | txRdy => rw [admissible_txRdy, writeResult_iff]; rfl
  | udpRdy => rw [admissible_udpRdy, writeResult_iff]; rfl

/-- An admissible outcome runs its iteration (R364). -/
theorem iterated_of_admissible {s t : State} {o : WaitOutcome} (hr : s.running = true)
    (ha : admissible s s.ports.iores o = true) (h : exec (iterOf o) s = .next t) : Iterated s o t := by
  rw [exec_iterOf, engIter_of_admissible hr ha] at h
  obtain ⟨u, hu, hk⟩ := andThen_eq_next h
  exact ⟨hr, ha, u, hu, (Host.Outcome.next.inj hk).symm⟩

theorem Iterated.result_eq {s t : State} {o : WaitOutcome} (h : Iterated s o t) :
    t.result = { status := if t.running then .ok else .exited } := by
  obtain ⟨_, _, u, _, rfl⟩ := h
  rfl

/-- Settles O43: the check is the table, and an iteration that ran reports whether the engine still does. -/
theorem onlyAdmissibleOutcomesRun : Obligations.OnlyAdmissibleOutcomesRun := by
  intro s i o ho hr
  obtain rfl := eq_iterOf_of_outcomeOf ho
  refine ⟨fun hna => ?_, fun ha t h => (iterated_of_admissible hr (admissible_iff.mpr ha) h).result_eq⟩
  have hna' : admissible s s.ports.iores o = false := Bool.eq_false_iff.mpr (mt admissible_iff.mp hna)
  rw [exec_iterOf, engIter_of_inadmissible hr hna']
  rfl

theorem RuleEffect.waitTimeout_eq {s u : State} (h : RuleEffect s u) : u.waitTimeout = s.waitTimeout := by
  cases h with
  | tick now => exact (s.tick_sameUdpAndTimeout now).2
  | _ => rfl

theorem Iterated.waitTimeout_eq {s t : State} {o : WaitOutcome} (h : Iterated s o t) :
    t.waitTimeout = waitTimeoutFor s.registry.length := by
  obtain ⟨u, hu, ⟨_, rfl⟩ | ⟨_, _, v, hv, rfl⟩⟩ := h.cases
  · exact hu.waitTimeout_eq
  · exact hv.sameUdpAndTimeout.2.trans hu.waitTimeout_eq

theorem toNat_waitTimeoutFor (n : Nat) : (waitTimeoutFor n).toNat = 32 / max 1 n :=
  Nat.mod_eq_of_lt (Nat.lt_of_le_of_lt (Nat.div_le_self Config.cap _) (by decide))

/-- Settles O44: the timeout is recorded before the outcome's rule, which no part of an iteration changes. -/
theorem iterationRecordsTheWaitTimeout : Obligations.IterationRecordsTheWaitTimeout := by
  refine ⟨fun s t i o ho hr ha h => ?_, rfl⟩
  obtain rfl := eq_iterOf_of_outcomeOf ho
  rw [(iterated_of_admissible hr (admissible_iff.mpr ha) h).waitTimeout_eq, toNat_waitTimeoutFor]

/-! ### The outcomes without received bytes (R365, R366, R371..R377) -/

theorem State.endIteration_of_running {s : State} (h : s.running = true) :
    s.endIteration = s.finish { status := .ok } := by rw [State.endIteration, if_pos h]

theorem fatal_endIteration (s : State) : (s.armed.fatal .io).endIteration = stoppedBy s .fatalIo [.fatal .io] := rfl

theorem gracefulStop_endIteration (s : State) : s.armed.gracefulStop.endIteration = stoppedBy s .graceful [] := by
  rw [stoppedBy, List.append_nil]
  rfl

section Running

variable {s : State} (hr : s.running = true)
include hr

/-- An admissible outcome whose rule leaves nothing to process ends with what the rule did. -/
theorem exec_iterOf_of_settled {o : WaitOutcome} (ha : admissible s s.ports.iores o = true) {u : State}
    (hu : ruleOf s o s.armed = u) (hsettled : Settled u) : exec (iterOf o) s = .next u.endIteration := by
  rw [exec_iterOf, engIter_of_admissible hr ha, hu, processIfPending_of_settled hsettled, andThen_next]

theorem exec_iterOf_of_runs {o : WaitOutcome} (ha : admissible s s.ports.iores o = true) {u : State}
    (hu : ruleOf s o s.armed = u) (hrun : u.running = true) (hp : u.intent.processPending = false) :
    exec (iterOf o) s = .next (u.finish { status := .ok }) := by
  rw [exec_iterOf_of_settled hr ha hu (fun _ => hp), State.endIteration_of_running hrun]

theorem exec_iterOf_of_kept {o : WaitOutcome} (ha : admissible s s.ports.iores o = true)
    (hu : ruleOf s o s.armed = s.armed) (hp : s.intent.processPending = false) :
    exec (iterOf o) s = .next { s with waitTimeout := timeoutOf s, result := { status := .ok } } :=
  exec_iterOf_of_runs hr ha hu hr hp

theorem exec_iterOf_of_fatal {o : WaitOutcome} (ha : admissible s s.ports.iores o = true)
    (hu : ruleOf s o s.armed = s.armed.fatal .io) :
    exec (iterOf o) s = .next (stoppedBy s .fatalIo [.fatal .io]) := by
  rw [exec_iterOf_of_settled hr ha hu (settled_of_stopped rfl), fatal_endIteration]

end Running

/-- Settles O45: the two stops, and a rule that does nothing. -/
theorem waitOutcomesWithoutIo : Obligations.WaitOutcomesWithoutIo := by
  refine ⟨decodeOfEncodeIsTheInstruction .engIterHarderr, decodeOfEncodeIsTheInstruction .engIterIntr,
    decodeOfEncodeIsTheInstruction .engIterCtrl, fun s hr => ⟨?_, fun hp => ?_, fun hc => ?_⟩⟩
  · exact exec_iterOf_of_fatal (o := .hardErr) hr rfl rfl
  · exact exec_iterOf_of_kept (o := .intr) hr rfl rfl hp
  · rw [← gracefulStop_endIteration]
    exact exec_iterOf_of_settled (o := .ctrl) hr hc rfl (settled_of_stopped rfl)

/-- Settles O46: the three results of a radio write, each with the rule's own state. -/
theorem radioWriteOutcomes : Obligations.RadioWriteOutcomes := by
  refine ⟨decodeOfEncodeIsTheInstruction .engIterTxrdy, fun s hr hq hi => ?_⟩
  have hwant : s.intent.wantWriteRadio = true := by rw [hi]; rfl
  have hadm {io : IoRes} (hio : s.ports.iores = io) (hw : writeResult io = true) :
      admissible s s.ports.iores .txRdy = true := admissible_txRdy.mpr ⟨hq, hwant, hio ▸ hw⟩
  have hrule {io : IoRes} (hio : s.ports.iores = io) : ruleOf s .txRdy s.armed = s.armed.radioWrite io :=
    congrArg s.armed.radioWrite hio
  exact ⟨fun hio => exec_iterOf_of_runs hr (hadm hio rfl) (hrule hio) hr rfl,
    fun hio => exec_iterOf_of_kept hr (hadm hio rfl) (hrule hio) (by rw [hi]; rfl),
    fun hio => exec_iterOf_of_fatal hr (hadm hio rfl) (hrule hio)⟩

/-- Settles O47: the three results of a send, each with the rule's own state. -/
theorem udpSendOutcomes : Obligations.UdpSendOutcomes := by
  refine ⟨decodeOfEncodeIsTheInstruction .engIterUdprdy, fun s hr hq hi => ?_⟩
  have hwant : s.intent.wantWriteUdp = true := by rw [hi]; rfl
  have hadm {io : IoRes} (hio : s.ports.iores = io) (hw : writeResult io = true) :
      admissible s s.ports.iores .udpRdy = true := admissible_udpRdy.mpr ⟨hq, hwant, hio ▸ hw⟩
  have hrule {io : IoRes} (hio : s.ports.iores = io) : ruleOf s .udpRdy s.armed = s.armed.udpSend io :=
    congrArg s.armed.udpSend hio
  exact ⟨fun hio => exec_iterOf_of_runs hr (hadm hio rfl) (hrule hio) hr rfl,
    fun hio => exec_iterOf_of_kept hr (hadm hio rfl) (hrule hio) (by rw [hi]; rfl),
    fun hio => exec_iterOf_of_fatal hr (hadm hio rfl) (hrule hio)⟩

/-- Settles O49: the three results of a radio read without bytes; two of them have the same rule. -/
theorem radioReadWithoutBytes : Obligations.RadioReadWithoutBytes := by
  intro s hr hq hi
  have hwant : s.intent.wantReadRadio = true := by rw [hi]; rfl
  have hadm {io : IoRes} (hio : s.ports.iores = io)
      (hf : readResultFits s.params.bufCap s.bufs.rrb.length io = true) :
      admissible s s.ports.iores .rxRdy = true := admissible_rxRdy.mpr ⟨hq, hwant, hio ▸ hf⟩
  have hrule {io : IoRes} (hio : s.ports.iores = io) : ruleOf s .rxRdy s.armed = s.armed.radioRead io :=
    congrArg s.armed.radioRead hio
  refine ⟨fun hio => exec_iterOf_of_kept hr (hadm hio rfl) (hrule hio) (by rw [hi]; rfl), ?_⟩
  rintro (hio | hio)
  · exact exec_iterOf_of_fatal hr (hadm hio rfl) (hrule hio)
  · exact exec_iterOf_of_fatal hr (hadm hio rfl) (hrule hio)

/-! ### The scheduling tick (R380) -/

/-- The tick evicts nothing, or of the offline records the newest, with a log entry (R381, R314). -/
def Evicts (s : State) (kept : List SensorRecord) (entries : List LogEntry) : Prop :=
  ((∀ r ∈ s.registry, ¬ threshold s.params ≤ r.deficit.toNat) ∧ kept = s.registry ∧ entries = []) ∨
    ∃ o ∈ s.registry, threshold s.params ≤ o.deficit.toNat ∧
      (∀ q ∈ s.registry, threshold s.params ≤ q.deficit.toNat → q.seq ≤ o.seq) ∧
      kept = s.registry.filter (· ≠ o) ∧ entries = [.evict o.address]

theorem State.evictOffline_evicts {s : State} (hi : RegistryInv s) :
    ∃ kept entries, Evicts s kept entries ∧ (kept.map (·.address)).Nodup ∧
      s.evictOffline = { s with registry := kept, log := s.log ++ entries } := by
  obtain ⟨_, hunique, hsorted, _⟩ := hi
  rcases s.evictOffline_cases with ⟨hnone, e⟩ | ⟨o, hsome, e⟩
  · exact ⟨s.registry, [], .inl ⟨findOffline_eq_none.mp hnone, rfl, rfl⟩, hunique, by rw [e, List.append_nil]⟩
  · obtain ⟨ho, hn⟩ := findOffline_some hsome
    refine ⟨_, _, .inr ⟨o, ho, hn, findOffline_newest hsorted hsome, rfl, rfl⟩,
      hunique.sublist (List.filter_sublist.map _), ?_⟩
    rw [e, ← removeRecord_eq_filter hunique ho]
    rfl

theorem State.pollEarliest_of_empty {s : State} (h : s.registry = []) (now : Time) : s.pollEarliest now = s := by
  rw [State.pollEarliest, findEarliest_eq_none.mpr h]

theorem State.pollEarliest_of_nonempty {s : State} (hunique : (s.registry.map (·.address)).Nodup)
    (hcap : 23 ≤ s.params.bufCap) (hne : s.registry ≠ []) (now : Time) :
    ∃ e ∈ s.registry,
      (∀ q ∈ s.registry, e.lastRequestTime < q.lastRequestTime ∨
        (e.lastRequestTime = q.lastRequestTime ∧ q.seq ≤ e.seq)) ∧
      s.pollEarliest now = { s with
        registry := s.registry.map fun q => if q = e then e.pollRequested now else q
        bufs := { s.bufs with rwb := controlPacket s.params s.params.cmdDreq e.address s.sLocal }
        intent := .writeRadio } := by
  rcases s.pollEarliest_cases now with ⟨hempty, _⟩ | ⟨e, hf, ⟨_, he⟩ | ⟨hsmall, _⟩⟩
  · exact absurd hempty hne
  · obtain ⟨hmem, hearliest⟩ := findEarliest_spec hf
    refine ⟨e, hmem, hearliest, ?_⟩
    rw [he, State.updateRecord_eq_map hunique hmem rfl]
    rfl
  · omega

/-- Settles O48: the eviction leaves a registry of unique addresses, which the poll finds empty or not. -/
theorem timeoutRunsTheTick : Obligations.TimeoutRunsTheTick := by
  refine ⟨decodeOfEncodeIsTheInstruction .engIterTimeout, fun s hi hr hq hp hcap => ?_⟩
  obtain ⟨kept, entries, hevicts, hunique, he⟩ := State.evictOffline_evicts (s := s.armed) hi
  have hadm : admissible s s.ports.iores .timeout = true := admissible_iff.mpr hq
  have hrule {u : State} (hu : s.armed.evictOffline.pollEarliest s.ports.now = u) :
      ruleOf s .timeout s.armed = u := hu
  rw [he] at hrule
  refine ⟨kept, entries, hevicts, fun hempty => ?_, fun hne => ?_⟩
  · subst hempty
    exact exec_iterOf_of_runs hr hadm (hrule (State.pollEarliest_of_empty rfl _)) hr hp
  · obtain ⟨e, hmem, hearliest, hpoll⟩ := State.pollEarliest_of_nonempty
      (s := { s.armed with registry := kept, log := s.log ++ entries }) hunique hcap hne s.ports.now
    exact ⟨e, hmem, hearliest, exec_iterOf_of_runs hr hadm (hrule hpoll) hr rfl⟩

/-! ### Received bytes (R390..R398) -/

theorem process_of_undecoded {s : State} {f : DecodeFailure} (h : decodeBytes s.params s.bufs.rrb = .fail f) :
    process s = .next (s.dropWith (.badPacket f)).endProcess := by
  rw [process, h]

theorem dispatch_of_rreq {s : State} {pkt : Packet} (h : pkt.command = s.params.cmdRreq) :
    dispatch pkt s = dispatchRegisterRequest pkt s := if_pos h

theorem dispatch_of_drsp {s : State} {pkt : Packet} (hdistinct : CommandsDistinct s.params)
    (h : pkt.command = s.params.cmdDrsp) : dispatch pkt s = .next (dispatchDataResponse pkt s) := by
  have hne : pkt.command ≠ s.params.cmdRreq := by
    rw [h]
    intro he
    simp [CommandsDistinct, he] at hdistinct
  rw [dispatch, if_neg hne, if_pos h]

theorem dispatch_of_unrecognized {s : State} {pkt : Packet} (hreq : pkt.command ≠ s.params.cmdRreq)
    (hrsp : pkt.command ≠ s.params.cmdDrsp) : dispatch pkt s = .next (s.dropWith (.unrecognizedCmd pkt.command)) := by
  rw [dispatch, if_neg hreq, if_neg hrsp]

/-- What a packet dropped in processing leaves of the state the read began with (R390, R398). -/
theorem received_dropWith_end (s : State) (v : List Byte) (e : LogEntry) :
    ((s.received v).dropWith e).endProcess.finish { status := .ok } = dropped s [e] := by
  cases s
  rfl

section Ready

variable {s : State} {v : List Byte} (h : ReadyToRead s v)
include h

theorem exec_engIterRxrdy_of_process {u : State} (hu : process (s.received v) = .next u) (hrun : u.running = true) :
    exec .engIterRxrdy s = .next (u.finish { status := .ok }) := by
  rw [exec_engIterRxrdy_of_ready h, hu, andThen_next, State.endIteration_of_running hrun]

variable {pkt : Packet} (hd : decodeBytes s.params v = .ok pkt)
include hd

theorem exec_engIterRxrdy_of_dispatch {u : State} (hu : dispatch pkt (s.received v) = .next u)
    (hrun : u.running = true) : exec .engIterRxrdy s = .next (u.endProcess.finish { status := .ok }) := by
  refine exec_engIterRxrdy_of_process h ?_ hrun
  rw [process_of_decoded (s := s.received v) hd, hu, andThen_next]

theorem exec_engIterRxrdy_of_drop {e : LogEntry}
    (hu : dispatch pkt (s.received v) = .next ((s.received v).dropWith e)) :
    exec .engIterRxrdy s = .next (dropped s [e]) := by
  rw [exec_engIterRxrdy_of_dispatch h hd hu h.running, received_dropWith_end]

end Ready

/-- Settles O50: a decode that failed, and the dispatch's last case. -/
theorem unusableInputIsDropped : Obligations.UnusableInputIsDropped := by
  refine fun s v h => ⟨fun f hf => ?_, fun pkt hd hreq hrsp => ?_⟩
  · rw [exec_engIterRxrdy_of_process h (process_of_undecoded (s := s.received v) hf) h.running, received_dropWith_end]
  · exact exec_engIterRxrdy_of_drop h hd (dispatch_of_unrecognized (s := s.received v) hreq hrsp)

/-! ### Dispatch of a RegisterRequest (R391) -/

/-- How a request sent to broadcast is answered, by the result of the checks of `add`. -/
def answerRegistration (pkt : Packet) (s : State) : AddResult → Out
  | .rangeError => .next (s.dropWith (.unknownAddr pkt.src))
  | .capacityExceeded => .next (s.dropWith (.capacity pkt.src))
  | .seqExhausted => .refused .seqExhausted
  | .duplicate _ => .next ((s.addLog (.duplicateReg pkt.src)).stageRegisterResponse pkt.src)
  | .created r => .next ((s.insertRecord r).stageRegisterResponse pkt.src)

theorem dispatch_of_broadcast {s : State} {pkt : Packet} (hcmd : pkt.command = s.params.cmdRreq)
    (hdest : pkt.dest = Config.broadcast) {c : AddResult} (hc : addCheck s pkt.src = c) :
    dispatch pkt s = answerRegistration pkt s c := by
  rw [dispatch_of_rreq hcmd, dispatchRegisterRequest, if_neg (not_not.mpr hdest), hc]
  cases c <;> rfl

theorem dispatch_of_not_broadcast {s : State} {pkt : Packet} (hcmd : pkt.command = s.params.cmdRreq)
    (hdest : pkt.dest ≠ Config.broadcast) : dispatch pkt s = .next (s.dropWith (.unknownAddr pkt.dest)) := by
  rw [dispatch_of_rreq hcmd, dispatchRegisterRequest, if_pos hdest]

theorem State.stageRegisterResponse_of_fits {s : State} (hcap : 23 ≤ s.params.bufCap) (src : Addr) :
    s.stageRegisterResponse src =
      ((s.updateRecord src SensorRecord.registered).setBuf .rwb
        (controlPacket s.params s.params.cmdRrsp src s.sLocal)).setIo .writeRadio := by
  rcases s.stageRegisterResponse_cases src with ⟨_, e⟩ | ⟨hsmall, _⟩
  · exact e
  · omega

/-- The end of an iteration that accepted a registration: the registry, the counter and the log it leaves, and the
RegisterResponse staged. -/
def registrationAccepted (s : State) (src : Addr) (reg : List SensorRecord) (seq : BitVec 64)
    (entries : List LogEntry) : State :=
  { s with
    waitTimeout := timeoutOf s
    registry := reg
    nextSeq := seq
    log := s.log ++ entries
    bufs := { s.bufs with rrb := [], rwb := controlPacket s.params s.params.cmdRrsp src s.sLocal }
    intent := .writeRadio
    result := { status := .ok } }

theorem exec_engIterRxrdy_of_accepted {s u : State} {v : List Byte} {pkt : Packet} (h : ReadyToRead s v)
    (hd : decodeBytes s.params v = .ok pkt) (hcap : 23 ≤ s.params.bufCap) {reg : List SensorRecord} {seq : BitVec 64}
    {entries : List LogEntry}
    (hu : u = { s.received v with registry := reg, nextSeq := seq, log := s.log ++ entries })
    (hdispatch : dispatch pkt (s.received v) = .next (u.stageRegisterResponse pkt.src)) :
    exec .engIterRxrdy s =
      .next (registrationAccepted s pkt.src (updateRecord reg pkt.src SensorRecord.registered) seq entries) := by
  subst hu
  rw [State.stageRegisterResponse_of_fits (by exact hcap)] at hdispatch
  rw [exec_engIterRxrdy_of_dispatch h hd hdispatch h.running]
  cases s
  rfl

/-- The registration that created a record moves that record on, and no other. -/
theorem updateRecord_registered_new {reg : List SensorRecord} {a : Addr} (habsent : ∀ r ∈ reg, r.address ≠ a)
    (seq : BitVec 64) :
    updateRecord (newRecord a seq :: reg) a SensorRecord.registered =
      ⟨a, .registerResponded, 0, 0, 0, none, seq⟩ :: reg :=
  congrArg₂ List.cons (if_pos rfl) (updateRecord_of_absent habsent _)

theorem updateRecord_registered_known {reg : List SensorRecord} (hunique : (reg.map (·.address)).Nodup)
    {r : SensorRecord} (hr : r ∈ reg) :
    updateRecord reg r.address SensorRecord.registered = reg.map fun q =>
      if q = r ∧ r.state = .registerPending then { r with state := .registerResponded } else q := by
  rw [updateRecord_eq_map hunique hr]
  refine List.map_congr_left fun q _ => ?_
  by_cases hq : q = r
  · subst hq
    simp [SensorRecord.registered]
  · simp [hq]

/-- Settles O51: the checks of `add` in their order; an accepted request stages its response in every case. -/
theorem registrationDispatch : Obligations.RegistrationDispatch := by
  intro s v pkt h hi hcap hd hcmd
  obtain ⟨_, hunique, _, _⟩ := hi
  have hanswer (hdest : pkt.dest = 0x00FFFFFF) {c : AddResult} (hc : addCheck (s.received v) pkt.src = c) :
      dispatch pkt (s.received v) = answerRegistration pkt (s.received v) c :=
    dispatch_of_broadcast (s := s.received v) hcmd hdest hc
  refine ⟨fun hdest => ?_, fun hdest hout => ?_, fun hdest hin hfull => ?_, fun hdest hin hroom habsent hseq => ?_,
    fun hdest hin hroom r hr ha => ?_⟩
  · exact exec_engIterRxrdy_of_drop h hd (dispatch_of_not_broadcast (s := s.received v) hcmd hdest)
  · exact exec_engIterRxrdy_of_drop h hd (hanswer hdest (addCheck_of_outOfRange hout))
  · exact exec_engIterRxrdy_of_drop h hd (hanswer hdest (addCheck_of_full hin (Nat.le_of_eq hfull.symm)))
  · rw [← updateRecord_registered_new habsent]
    exact exec_engIterRxrdy_of_accepted h hd hcap (by rw [List.append_nil]; rfl)
      (hanswer hdest (addCheck_of_absent hin hroom habsent hseq))
  · rw [← updateRecord_registered_known hunique hr, ha]
    exact exec_engIterRxrdy_of_accepted h hd hcap rfl
      (hanswer hdest (addCheck_of_known hin hroom (findRecord_of_mem hunique hr ha)))

/-! ### Dispatch of a DataResponse (R392) -/

section Response

variable {s : State} {pkt : Packet}

theorem dispatchDataResponse_of_other_dest (h : pkt.dest ≠ s.sLocal) :
    dispatchDataResponse pkt s = s.dropWith (.unknownAddr pkt.dest) := if_pos h

variable (hdest : pkt.dest = s.sLocal)
include hdest

theorem dispatchDataResponse_of_control (hl : pkt.contentLength ≠ Config.clData) :
    dispatchDataResponse pkt s = s.dropWith (.unrecognizedCmd pkt.command) := by
  rw [dispatchDataResponse, if_neg (not_not.mpr hdest), if_pos hl]

variable (hl : pkt.contentLength = Config.clData) {rd : Reading} (hrd : pkt.reading = some rd)
include hl hrd

theorem dispatchDataResponse_of_unsolicited
    (hstate : ∀ r ∈ s.registry, r.address = pkt.src → r.state ≠ .pollRequested) :
    dispatchDataResponse pkt s = s.dropWith (.stateMismatch pkt.src) := by
  rw [dispatchDataResponse, if_neg (not_not.mpr hdest), if_neg (not_not.mpr hl), hrd]
  cases hf : findRecord s.registry pkt.src with
  | none => rfl
  | some r =>
    obtain ⟨hr, ha⟩ := findRecord_some hf
    exact if_neg (hstate r hr ha)

theorem dispatchDataResponse_of_solicited {r : SensorRecord} (hf : findRecord s.registry pkt.src = some r)
    (hs : r.state = .pollRequested) : dispatchDataResponse pkt s = s.stageDatagram pkt rd := by
  rw [dispatchDataResponse, if_neg (not_not.mpr hdest), if_neg (not_not.mpr hl), hrd, hf]
  exact if_pos hs

end Response

theorem State.stageDatagram_of_fits {s : State} (hcap : 23 ≤ s.params.bufCap) (pkt : Packet) (rd : Reading) :
    s.stageDatagram pkt rd =
      ((s.updateRecord pkt.src (·.pollResponded rd)).setBuf .uwb
        (slice s.bufs.rrb (pkt.offset + 4) 19)).setIo .writeUdp := by
  rcases s.stageDatagram_cases pkt rd with ⟨_, e⟩ | ⟨hsmall, _⟩
  · exact e
  · rw [slice_length] at hsmall
    omega

/-- Settles O52: the drops in their order; the accepted reading changes the record found and stages its content. -/
theorem pollResponseDispatch : Obligations.PollResponseDispatch := by
  intro s v pkt h hi hlegal hd hcmd
  obtain ⟨_, hunique, _, _⟩ := hi
  obtain ⟨hdistinct, _, hcap⟩ := hlegal
  have hdispatch {u : State} (hu : dispatchDataResponse pkt (s.received v) = u) :
      dispatch pkt (s.received v) = .next u := hu ▸ dispatch_of_drsp (s := s.received v) hdistinct hcmd
  refine ⟨fun hdest => ?_, fun hdest hl => ?_, fun hdest hl hstate => ?_, fun hdest hl r hr ha hs => ?_⟩
  · exact exec_engIterRxrdy_of_drop h hd (hdispatch (dispatchDataResponse_of_other_dest hdest))
  · exact exec_engIterRxrdy_of_drop h hd (hdispatch (dispatchDataResponse_of_control hdest hl))
  · obtain ⟨⟨rd, hrd⟩, _⟩ := decodeBytes_data hd hl
    exact exec_engIterRxrdy_of_drop h hd (hdispatch (dispatchDataResponse_of_unsolicited hdest hl hrd hstate))
  · obtain ⟨⟨rd, hrd⟩, _⟩ := decodeBytes_data hd hl
    have hf : findRecord (s.received v).registry pkt.src = some r := findRecord_of_mem hunique hr ha
    have hstaged := (dispatchDataResponse_of_solicited (s := s.received v) hdest hl hrd hf hs).trans
      (State.stageDatagram_of_fits (s := s.received v) hcap pkt rd)
    rw [State.updateRecord_eq_map (s := s.received v) hunique hr ha] at hstaged
    refine ⟨rd, hrd, ?_⟩
    rw [exec_engIterRxrdy_of_dispatch h hd (hdispatch hstaged) h.running]
    cases s
    rfl

/-! ### Start and stop (R360, R361) -/

theorem configured_iff {s : State} :
    s.configured = true ↔ s.localAddr.written = true ∧ s.userId.written = true ∧ s.dataRate.written = true ∧
      s.serverIp.written = true ∧ s.serverPort.written = true := by
  simp [State.configured, and_assoc]

/-- Settles O36: the guard, then the written bits of the five configuration registers. -/
theorem engStartCommand : Obligations.EngStartCommand := by
  refine ⟨decodeOfEncodeIsTheInstruction .engStart,
    fun s => ⟨exec_of_mutating_of_running rfl, fun hr hw => ?_, fun hr hw => ?_⟩⟩
  · rw [exec, execEngStart, whenStopped_of_stopped hr, if_neg (mt configured_iff.mp hw)]
    rfl
  · rw [exec, execEngStart, whenStopped_of_stopped hr, if_pos (configured_iff.mpr hw)]
    rfl

/-- Settles O37: the two sides of the guard. -/
theorem engStopCommand : Obligations.EngStopCommand := by
  refine ⟨decodeOfEncodeIsTheInstruction .engStop, fun s => ⟨fun hr => ?_, fun hr => ?_⟩⟩
  · rw [exec, execEngStop, whenRunning_of_stopped hr]
    rfl
  · rw [exec, execEngStop, whenRunning_of_running hr]
    rfl

/-! ### Reading a control register (R362) -/

theorem exec_cfgRead_of_value {n : CrNum} {s : State} {v : BitVec 32} (h : s.readCr n = .value v) :
    exec (.cfgRead n) s = .next (s.finish { status := .ok, res := some (v.setWidth 64) }) := by
  rw [exec, execCfgRead, h]

theorem exec_cfgRead_of_reserved {n : CrNum} (h : n.reserved = true) (s : State) :
    exec (.cfgRead n) s = .next (s.raise .illegalCommand) := by
  rw [exec, execCfgRead, readCr_of_reserved h]

/-- A configuration register answers its value once it has been written (R63). -/
theorem exec_cfgRead_of_cfgReg {n : CrNum} {s : State} {w : Nat} {r : CfgReg w} {v : BitVec 32}
    (h : s.readCr n = r.read v) {x : BitVec 64} (hx : v.setWidth 64 = x) :
    exec (.cfgRead n) s =
      if r.written then .next (s.finish { status := .ok, res := some x }) else .next (s.raise .unconfigured) := by
  rw [exec, execCfgRead, h, CfgReg.read, ← hx]
  cases r.written <;> rfl

/-- A value of 16 bits passes unchanged through the 32-bit register on its way to `RES`. -/
theorem setWidth_64_of_setWidth_32 (v : BitVec 16) : (v.setWidth 32).setWidth 64 = v.setWidth 64 := by
  apply BitVec.eq_of_toNat_eq
  simp only [BitVec.toNat_setWidth]
  omega

/-- The fields of CR8 (R57), each where the rule puts it and nothing above. -/
theorem engStatus_fields (s : State) :
    let cr8 : BitVec 64 := s.engStatus.setWidth 64
    cr8.getLsbD 0 = s.running ∧ cr8.getLsbD 3 = s.ctrlPending ∧ cr8.toNat < 16 ∧
      cr8.toNat / 2 % 4 =
        (match s.exitCause with | .none => 0 | .graceful => 1 | .fatalIo => 2 | .fatalAlloc => 3) := by
  rw [State.engStatus]
  cases s.exitCause <;> cases s.running <;> cases s.ctrlPending <;> decide

/-- The flags of CR9 (R58), one bit each and nothing above. -/
theorem intentView_fields (i : Intent) :
    let cr9 : BitVec 64 := i.view.setWidth 64
    cr9.getLsbD 0 = i.wantReadRadio ∧ cr9.getLsbD 1 = i.wantWriteRadio ∧ cr9.getLsbD 2 = i.wantReadUdp ∧
      cr9.getLsbD 3 = i.wantWriteUdp ∧ cr9.getLsbD 4 = i.processPending ∧ cr9.toNat < 32 := by
  obtain ⟨rr, wr, ru, wu, pp⟩ := i
  revert rr wr ru wu pp
  decide

/-- CR10 has room for the size of a registry within its capacity (R59). -/
theorem regCount_of_fits {s : State} (h : s.registry.length ≤ 32) :
    s.regCount.setWidth 64 = BitVec.ofNat 64 s.registry.length := by
  apply BitVec.eq_of_toNat_eq
  simp only [State.regCount, BitVec.toNat_setWidth, BitVec.toNat_ofNat]
  omega

/-- Settles O38: register by register, what the read finds. -/
theorem cfgReadCommand : Obligations.CfgReadCommand := by
  refine ⟨fun n => decodeOfEncodeIsTheInstruction (.cfgRead n), fun s => ⟨exec_cfgRead_of_cfgReg rfl rfl,
    exec_cfgRead_of_cfgReg rfl (setWidth_64_of_setWidth_32 _), exec_cfgRead_of_cfgReg rfl rfl,
    exec_cfgRead_of_cfgReg rfl rfl, exec_cfgRead_of_cfgReg rfl (setWidth_64_of_setWidth_32 _),
    ⟨_, exec_cfgRead_of_value rfl, engStatus_fields s⟩, ⟨_, exec_cfgRead_of_value rfl, intentView_fields s.intent⟩,
    fun hsize => ?_, exec_cfgRead_of_value rfl, fun n hn => ?_⟩⟩
  · rw [← regCount_of_fits hsize]
    exact exec_cfgRead_of_value rfl
  · have hreserved : ∀ n ∈ [CrNum.cr5, .cr6, .cr7, .cr12, .cr13, .cr14, .cr15], n.reserved = true := by decide
    exact exec_cfgRead_of_reserved (hreserved n hn) s

/-! ### Writing a control register (R363) -/

theorem mem_writable_iff {n : CrNum} : n ∈ [CrNum.cr0, .cr1, .cr2, .cr3, .cr4] ↔ writableCr n = true := by
  cases n <;> decide

theorem exec_cfgWrite_of_stopped {s : State} (hr : s.running = false) {n : CrNum} (hn : writableCr n = true) :
    exec (.cfgWrite n) s =
      if n = .cr1 ∧ userIdLegal (s.ports.val.extractLsb' 0 8) = false then .next (s.raise .rangeError)
      else .next ((s.writeCr n s.ports.val).finish { status := .ok }) :=
  (if_pos hn).trans (whenStopped_of_stopped hr _)

theorem exec_cfgWrite_of_no_range {s : State} (hr : s.running = false) {n : CrNum} (hn : writableCr n = true)
    (h1 : n ≠ .cr1) : exec (.cfgWrite n) s = .next ((s.writeCr n s.ports.val).finish { status := .ok }) :=
  (exec_cfgWrite_of_stopped hr hn).trans (if_neg fun h => h1 h.1)

/-- The low `n` bits of a value are the value mod 2^n. -/
theorem extractLsb'_zero_eq_ofNat (v : BitVec 32) (n : Nat) : v.extractLsb' 0 n = BitVec.ofNat n v.toNat := by
  apply BitVec.eq_of_toNat_eq
  simp

/-- The range check of a user id, on the ignored upper bits' remainder (R53, R363). -/
theorem userIdLegal_eq_false_iff (v : BitVec 32) :
    userIdLegal (BitVec.ofNat 8 v.toNat) = false ↔ v.toNat % 256 < 0x01 ∨ 0xF0 < v.toNat % 256 := by
  simp only [userIdLegal, decide_eq_false_iff_not, BitVec.le_def, BitVec.toNat_ofNat]
  have hmin : Config.userIdMin.toNat = 0x01 := rfl
  have hmax : Config.userIdMax.toNat = 0xF0 := rfl
  omega

/-- Settles O39: the register number, the guard, and for CR1 the range. -/
theorem cfgWriteCommand : Obligations.CfgWriteCommand := by
  refine ⟨fun n => decodeOfEncodeIsTheInstruction (.cfgWrite n), fun s => ⟨fun n hn => ?_, fun hr n hn => ?_,
    fun hr => ⟨exec_cfgWrite_of_no_range hr rfl nofun, ?_, exec_cfgWrite_of_no_range hr rfl nofun,
      exec_cfgWrite_of_no_range hr rfl nofun, ?_⟩⟩⟩
  · exact execCfgWrite_of_not_writable (Bool.eq_false_iff.mpr (mt mem_writable_iff.mpr hn)) s
  · exact exec_of_mutating_of_running ((isMutating_cfgWrite n).trans (mem_writable_iff.mp hn)) hr
  · rw [exec_cfgWrite_of_stopped hr rfl, State.writeCr, extractLsb'_zero_eq_ofNat]
    exact if_congr ((and_iff_right rfl).trans (userIdLegal_eq_false_iff _)) rfl rfl
  · rw [← extractLsb'_zero_eq_ofNat]
    exact exec_cfgWrite_of_no_range hr rfl nofun

end Sys2Proof.Machine
end

section
/-!
The statements about how a command ends (spec/60_exceptions.md). `Ends codes s t` says it once: the command was refused with
one of `codes` and kept the state, or it ended with a status that refuses nothing. `exec_host_ends` and `exec_engine_ends`
place every command under the codes it can answer; both statements are read off these.
-/

namespace Sys2Proof.Machine

open Sys2Proof.Claims

/-! ### Ends of a command (R430, R431) -/

/-- The statuses that refuse nothing (R430). -/
def passingCodes : List Status := [.ok, .none, .badContent, .exited]

/-- The refusal and failure codes a host command other than `ENG_STOP` and `ENG_ITER` can answer (R430, R445). -/
def hostCodes : List Status :=
  [.notFound, .capacityExceeded, .stateMismatch, .illegalCommand, .busy, .allocFail, .rangeError, .unconfigured]

/-- The refusal codes `ENG_STOP` and `ENG_ITER` can answer (R361, R364). -/
def engineCodes : List Status := [.notRunning, .illegalCommand]

/-- How a command took `s` to `t`: it was refused with one of `codes` and kept the state, or its status refuses nothing. -/
def Ends (codes : List Status) (s t : State) : Prop :=
  (∃ st ∈ codes, t = s.raise st) ∨ t.result.status ∈ passingCodes

theorem ends_raise {codes : List Status} {s t : State} {st : Status} (hst : st ∈ codes)
    (h : Host.Outcome.next (s.raise st) = (.next t : Out)) : Ends codes s t :=
  .inl ⟨st, hst, (Host.Outcome.next.inj h).symm⟩

theorem ends_finish {codes : List Status} {s t u : State} {r : ResultPorts} (hr : r.status ∈ passingCodes)
    (h : Host.Outcome.next (u.finish r) = (.next t : Out)) : Ends codes s t := by
  cases h
  exact .inr hr

theorem Ends.status_mem {codes : List Status} {s t : State} (h : Ends codes s t) :
    t.result.status ∈ codes ++ passingCodes := by
  rcases h with ⟨st, hst, rfl⟩ | h
  · exact List.mem_append_left _ hst
  · exact List.mem_append_right _ h

theorem Ends.eq_raise {codes : List Status} {s t : State} (h : Ends codes s t)
    (hfail : t.result.status ∉ passingCodes) : t = s.raise t.result.status := by
  rcases h with ⟨st, _, rfl⟩ | h
  · rfl
  · exact absurd h hfail

/-! ### The commands that change no state (R108) -/

theorem lookupPorts_passing (o : Option SensorRecord) : (lookupPorts o).status ∈ passingCodes := by
  cases o with
  | none => decide
  | some r => exact List.mem_cons_self

theorem DecodeResult.ports_passing (r : DecodeResult) : r.ports.status ∈ passingCodes := by
  cases r with
  | ok pkt => exact List.mem_cons_self
  | fail f => cases f <;> decide

theorem execCksum_ends {b : BufIdx} {s t : State} (h : execCksum b s = .next t) : Ends hostCodes s t := by
  simp only [execCksum] at h
  split at h
  · exact ends_raise (by decide) h
  · exact ends_finish List.mem_cons_self h

theorem execCfgRead_ends {n : CrNum} {s t : State} (h : execCfgRead n s = .next t) : Ends hostCodes s t := by
  simp only [execCfgRead] at h
  split at h
  · exact ends_raise (by decide) h
  · exact ends_raise (by decide) h
  · exact ends_finish List.mem_cons_self h

theorem exec_ends_of_readOnly {i : Instr} (hro : isReadOnly i = true) {s t : State} (h : exec i s = .next t) :
    Ends hostCodes s t := by
  cases i with
  | cksum b => exact execCksum_ends h
  | cfgRead n => exact execCfgRead_ends h
  | decode b => exact ends_finish (DecodeResult.ports_passing _) h
  | regFind | regEarliest | regOffline => exact ends_finish (lookupPorts_passing _) h
  | bufLen b | bufRead b | regSize | regList => exact ends_finish List.mem_cons_self h
  | _ => cases hro

/-! ### The commands behind the stop-the-world guard (R112) -/

theorem hostBufWrite_ends {s t : State} {b : BufIdx} {v : List Byte} (h : hostBufWrite s b v = .next t) :
    Ends hostCodes s t := by
  rcases hostBufWrite_eq_next h with ⟨_, rfl⟩ | ⟨_, rfl⟩
  · exact .inr List.mem_cons_self
  · exact .inl ⟨_, by decide, rfl⟩

theorem answerAdd_ends {s t : State} {c : AddResult} (h : answerAdd s c = .next t) : Ends hostCodes s t := by
  cases c with
  | rangeError | capacityExceeded => exact ends_raise (by decide) h
  | seqExhausted => cases h
  | duplicate r | created r => exact ends_finish List.mem_cons_self h

section Stopped

variable {s t : State} (hr : s.running = false)
include hr

theorem encodeInto_ends_of_stopped {b : BufIdx} {cmd : Byte} {rd : Option Reading}
    (h : encodeInto s b cmd rd = .next t) : Ends hostCodes s t :=
  hostBufWrite_ends ((whenStopped_of_stopped hr _).symm.trans h)

theorem exec_regRemove_ends_of_stopped (h : exec .regRemove s = .next t) : Ends hostCodes s t := by
  cases hf : findRecord s.registry s.ports.a with
  | none => exact ends_raise (by decide) ((exec_regRemove_of_absent hr hf).symm.trans h)
  | some r => exact ends_finish List.mem_cons_self ((exec_regRemove_of_found hr hf).symm.trans h)

theorem exec_regPollreq_ends_of_stopped (h : exec .regPollreq s = .next t) : Ends hostCodes s t := by
  cases hf : findRecord s.registry s.ports.a with
  | none => exact ends_raise (by decide) ((exec_regPollreq_of_absent hr hf).symm.trans h)
  | some r => exact ends_finish List.mem_cons_self ((exec_regPollreq_of_found hr hf).symm.trans h)

theorem exec_regPollrsp_ends_of_stopped (h : exec .regPollrsp s = .next t) : Ends hostCodes s t := by
  cases hf : findRecord s.registry s.ports.a with
  | none => exact ends_raise (by decide) ((exec_regPollrsp_of_absent hr hf).symm.trans h)
  | some r =>
    by_cases hs : r.state = .pollRequested
    · exact ends_finish List.mem_cons_self ((exec_regPollrsp_of_requested hr hf hs).symm.trans h)
    · exact ends_raise (by decide) ((exec_regPollrsp_of_mismatch hr hf hs).symm.trans h)

theorem execEngStart_ends_of_stopped (h : execEngStart s = .next t) : Ends hostCodes s t := by
  rw [execEngStart, whenStopped_of_stopped hr] at h
  split at h
  · exact ends_finish List.mem_cons_self h
  · exact ends_raise (by decide) h

theorem exec_cfgWrite_ends_of_stopped {n : CrNum} (hn : writableCr n = true) (h : exec (.cfgWrite n) s = .next t) :
    Ends hostCodes s t := by
  rw [exec_cfgWrite_of_stopped hr hn] at h
  split at h
  · exact ends_raise (by decide) h
  · exact ends_finish List.mem_cons_self h

theorem exec_ends_of_mutating_of_stopped {i : Instr} (hm : isMutating i = true) (h : exec i s = .next t) :
    Ends hostCodes s t := by
  cases i with
  | bufAppend b => exact hostBufWrite_ends ((exec_bufAppend_of_stopped hr b).symm.trans h)
  | bufReset b => exact ends_finish List.mem_cons_self ((exec_bufReset_of_stopped hr b).symm.trans h)
  | encRreq b | encRrsp b | encDreq b | encDrsp b => exact encodeInto_ends_of_stopped hr h
  | regAdd => exact answerAdd_ends ((exec_regAdd_of_stopped hr rfl).symm.trans h)
  | regRemove => exact exec_regRemove_ends_of_stopped hr h
  | regPollreq => exact exec_regPollreq_ends_of_stopped hr h
  | regPollrsp => exact exec_regPollrsp_ends_of_stopped hr h
  | engStart => exact execEngStart_ends_of_stopped hr h
  | cfgWrite n => exact exec_cfgWrite_ends_of_stopped hr ((isMutating_cfgWrite n).symm.trans hm) h
  | _ => cases hm

end Stopped

/-! ### Every command -/

/-- `ENG_STOP` and the seven `ENG_ITER` commands (R361, R364). -/
def IsEngineCommand (i : Instr) : Prop := i = .engStop ∨ ∃ o, i = iterOf o

theorem isEngineCommand_iff {i : Instr} : IsEngineCommand i ↔ i = .engStop ∨ (outcomeOf i).isSome = true := by
  refine or_congr_right ⟨?_, fun h => ?_⟩
  · rintro ⟨o, rfl⟩
    cases o <;> rfl
  · obtain ⟨o, ho⟩ := Option.isSome_iff_exists.mp h
    exact ⟨o, eq_iterOf_of_outcomeOf ho⟩

/-- How a command other than `ENG_STOP` and `ENG_ITER` ends. -/
theorem exec_host_ends {i : Instr} (hi : ¬ IsEngineCommand i) {s t : State} (h : exec i s = .next t) :
    Ends hostCodes s t := by
  cases hm : isMutating i with
  | true =>
    cases hr : s.running with
    | true => exact ends_raise (by decide) ((exec_of_mutating_of_running hm hr).symm.trans h)
    | false => exact exec_ends_of_mutating_of_stopped hr hm h
  | false =>
    rcases not_mutating_cases hm with hro | hstop | hiter | ⟨n, rfl, hn⟩
    · exact exec_ends_of_readOnly hro h
    · exact absurd (.inl hstop) hi
    · exact absurd (.inr hiter) hi
    · exact ends_raise (by decide) ((execCfgWrite_of_not_writable hn s).symm.trans h)

/-- A stopped engine takes no engine command: the guard comes before the command (R361, R364). -/
theorem exec_engine_of_stopped {i : Instr} (hi : IsEngineCommand i) {s : State} (hr : s.running = false) :
    exec i s = .next (s.raise .notRunning) := by
  rcases hi with rfl | ⟨o, rfl⟩
  · rw [exec, execEngStop, whenRunning_of_stopped hr]
  · rw [exec_iterOf, engIter_of_stopped hr]

theorem State.endIteration_passing (s : State) : s.endIteration.result.status ∈ passingCodes := by
  rw [State.endIteration, State.finish_result]
  cases s.running <;> decide

/-- How `ENG_STOP` and `ENG_ITER` end. -/
theorem exec_engine_ends {i : Instr} (hi : IsEngineCommand i) {s t : State} (h : exec i s = .next t) :
    Ends engineCodes s t := by
  cases hr : s.running with
  | false => exact ends_raise (by decide) ((exec_engine_of_stopped hi hr).symm.trans h)
  | true =>
    rcases hi with rfl | ⟨o, rfl⟩
    · rw [exec, execEngStop, whenRunning_of_running hr] at h
      exact ends_finish List.mem_cons_self h
    · rw [exec_iterOf] at h
      rcases engIter_eq_next h with ⟨_, rfl⟩ | ⟨_, _, rfl⟩ | ⟨_, _, u, _, rfl⟩
      · exact .inl ⟨_, by decide, rfl⟩
      · exact .inl ⟨_, by decide, rfl⟩
      · exact .inr u.endIteration_passing

/-! ### The obligations -/

/-- Settles O41: the guard of the engine commands, and the codes of every other command, `NOT_RUNNING` not among them. -/
theorem stoppedEngineRefusesEngineCommands : Obligations.StoppedEngineRefusesEngineCommands := by
  refine fun s i hr => ⟨fun hi => exec_engine_of_stopped (isEngineCommand_iff.mpr hi) hr, fun hstop ho t h => ?_⟩
  have hi : ¬ IsEngineCommand i := by
    rw [isEngineCommand_iff, ho]
    exact not_or.mpr ⟨hstop, Bool.false_ne_true⟩
  exact ne_of_mem_of_not_mem (exec_host_ends hi h).status_mem (by decide)

/-- Settles O42: none of the nine codes is one that refuses nothing, so the command ended by `State.raise`. -/
theorem refusedCommandsChangeNothing : Obligations.RefusedCommandsChangeNothing := by
  intro i s t h hcode
  have hfail : t.result.status ∉ passingCodes := by
    revert hcode
    cases t.result.status <;> decide
  by_cases hi : IsEngineCommand i
  · exact (exec_engine_ends hi h).eq_raise hfail
  · exact (exec_host_ends hi h).eq_raise hfail

end Sys2Proof.Machine
end
